-- ==== Sys2Proof/Word.lean ====
section
/-! DEFINITION. The two word types of the machine (00_scope.md R6, R8). -/

namespace Sys2Proof

/-- A byte: 8 bits, the data width (R6). -/
abbrev Byte := BitVec 8

/-- A word: 16 bits, the address width (R6). -/
abbrev Word := BitVec 16

end Sys2Proof
end

