-- ==== Sys2Proof/Machine/Bits.lean ====
section
/-! DEFINITION. Byte order, extension and single bits (00_scope.md R8, 20_memory.md R77). -/

namespace Sys2Proof

/-- `{hi, lo}`: the word hi*256 + lo (R8). -/
def wordOf (hi lo : Byte) : Word := hi ++ lo

/-- `w[7:0]` -/
def loByte (w : Word) : Byte := w.setWidth 8

/-- `w[15:8]` -/
def hiByte (w : Word) : Byte := (w >>> 8).setWidth 8

/-- `zext_16(b)`: the same number as a word (R8). -/
def zext16 (b : Byte) : Word := b.setWidth 16

/-- `sext_16(d)` taken modulo 2^16: d below 0x80, else d - 0x100 (R8). -/
def sext16 (d : Byte) : Word := d.signExtend 16

/-- A condition where a bit is needed: 1 for true, 0 for false (R8). -/
def bit1 (c : Bool) : Nat := if c then 1 else 0

end Sys2Proof
end

