-- ==== Sys2Proof/Config.lean ====
section
/-! DEFINITION. The fixed addresses, the parameters of 00_scope.md R7 that choose a behaviour, and the one free value. -/

namespace Sys2Proof

/-- The length in bytes of an unofficial no-op (30_encoding.md R112). -/
inductive NopLength where
  | one
  | two
  | three
deriving DecidableEq, Repr

/-- UNOFFICIAL_NOP_SET: a set of (opcode, length) (00_scope.md R7). -/
abbrev NopSet := List (Byte × NopLength)

/-- The length a set gives an opcode byte, if the byte is a member. Where a list gives one opcode two lengths, which the
spec does not speak of, the first entry decides (DESIGN CHOICE, log 25); no construction gives such a list
(`NopSet.admissible`). -/
def NopSet.lengthOf : NopSet → Byte → Option NopLength
  | [], _ => none
  | (o, n) :: rest, op => if o = op then some n else NopSet.lengthOf rest op

/-- VIDEO_AGENT: whether an external agent may change the readable port latches between steps
(20_memory.md R80). -/
inductive VideoAgent where
  | closed
  | opened
deriving DecidableEq, Repr

/-- The parameters that choose a behaviour of the running machine (00_scope.md R7). They stand in State, are
set at construction and are never written by a step (log 6). -/
structure Params where
  /-- JMP_INDIRECT_PAGE_BUG (44_control_flow.md R196). -/
  jmpIndirectPageBug : Bool
  /-- UNOFFICIAL_NOP_SET (30_encoding.md R112). -/
  nopSet : NopSet
  /-- VIDEO_AGENT (20_memory.md R80). -/
  videoAgent : VideoAgent
  /-- NMI_ENABLED (60_exceptions.md R236, R237). -/
  nmiEnabled : Bool
deriving DecidableEq, Repr

namespace Config

/-- The 27 unofficial no-ops of the default set, by length and mode (30_encoding.md R112, decision D7). -/
def defaultNopSet : NopSet :=
  -- length 1, IMP
  [(0x1A, .one), (0x3A, .one), (0x5A, .one), (0x7A, .one), (0xDA, .one), (0xFA, .one)] ++
  -- length 2, IMM
  [(0x80, .two), (0x82, .two), (0x89, .two), (0xC2, .two), (0xE2, .two)] ++
  -- length 2, ZP
  [(0x04, .two), (0x44, .two), (0x64, .two)] ++
  -- length 2, ZPX
  [(0x14, .two), (0x34, .two), (0x54, .two), (0x74, .two), (0xD4, .two), (0xF4, .two)] ++
  -- length 3, ABS
  [(0x0C, .three)] ++
  -- length 3, ABX
  [(0x1C, .three), (0x3C, .three), (0x5C, .three), (0x7C, .three), (0xDC, .three), (0xFC, .three)]

/-- The defaults of 00_scope.md R7: page bug on (D6), the 27 no-ops (D7), no NMI input (D16); VIDEO_AGENT is
`open`, the setting D15 names for claims (DESIGN CHOICE, log 6). -/
def defaultParams : Params where
  jmpIndirectPageBug := true
  nopSet := defaultNopSet
  videoAgent := .opened
  nmiEnabled := false

/-- The three vectors (60_exceptions.md R240). -/
def nmiVector : Word := 0xFFFA
/-- The reset vector (R240, 70_reset_and_hazards.md R261). -/
def resetVector : Word := 0xFFFC
/-- The BRK vector (R240, 45_system.md R215). -/
def brkVector : Word := 0xFFFE

/-- The store address that starts a sprite-memory DMA burst (20_memory.md R53). -/
def dmaTrigger : Word := 0x4014
/-- The OAM data port, where the burst writes (20_memory.md R54). -/
def oamDataPort : Word := 0x2004

/-- FREE VALUE: what a program byte reads as, by bus address, when the image does not fit the mapper variant
(prg_units not 1 or 2 under NROM or the test variant, 0 under the MMC1-class variant). The spec gives no answer
and refuses to construct such a machine (20_memory.md R63, R73; decision D8), so nothing constrains it (log 11). -/
opaque unfitPrgByte : Nat → Byte

end Config

end Sys2Proof
end

