-- ==== Sys2Proof/Syntax.lean ====
section
/-! DEFINITION. The instructions: one constructor per mnemonic of spec/opcode_table.json (30_encoding.md R108),
two for JMP, whose absolute and indirect forms have rules of their own (R115). A constructor's operand says which
of the mnemonic's rows it is (log 14). -/

namespace Sys2Proof

/-- A data operand: an addressing mode with its operand bytes (30_encoding.md R92, R94 to R103). -/
inductive Operand where
  /-- ACC, R94 -/
  | acc
  /-- IMM, R95 -/
  | imm (b : Byte)
  /-- ZP, R96 -/
  | zp (b : Byte)
  /-- ZPX, R97 -/
  | zpx (b : Byte)
  /-- ZPY, R98 -/
  | zpy (b : Byte)
  /-- ABS, R99 -/
  | abs (w : Word)
  /-- ABX, R100 -/
  | abx (w : Word)
  /-- ABY, R101 -/
  | aby (w : Word)
  /-- IZX `(zp,X)`, R102 -/
  | izx (b : Byte)
  /-- IZY `(zp),Y`, R103 -/
  | izy (b : Byte)
deriving DecidableEq, Repr

/-- The ignored operand bytes of an unofficial no-op (30_encoding.md R112, 45_system.md R218). -/
inductive NopOperand where
  | none
  | byte (b : Byte)
  | word (w : Word)
deriving DecidableEq, Repr

/-- An instruction. -/
inductive Instr where
  -- 40_load_store_transfer.md
  | lda (m : Operand)
  | ldx (m : Operand)
  | ldy (m : Operand)
  | sta (m : Operand)
  | stx (m : Operand)
  | sty (m : Operand)
  | tax
  | tay
  | txa
  | tya
  | tsx
  | txs
  -- 41_arithmetic_logic.md
  | adc (m : Operand)
  | sbc (m : Operand)
  | and (m : Operand)
  | ora (m : Operand)
  | eor (m : Operand)
  | cmp (m : Operand)
  | cpx (m : Operand)
  | cpy (m : Operand)
  | bit (m : Operand)
  | inc (m : Operand)
  | dec (m : Operand)
  | inx
  | iny
  | dex
  | dey
  -- 42_shift_rotate.md
  | asl (m : Operand)
  | lsr (m : Operand)
  | rol (m : Operand)
  | ror (m : Operand)
  -- 43_stack_flags.md
  | pha
  | php
  | pla
  | plp
  | clc
  | sec
  | cli
  | sei
  | cld
  | sed
  | clv
  -- 44_control_flow.md
  | jmpAbs (target : Word)
  | jmpInd (ptr : Word)
  | jsr (target : Word)
  | rts
  | bpl (d : Byte)
  | bmi (d : Byte)
  | bvc (d : Byte)
  | bvs (d : Byte)
  | bcc (d : Byte)
  | bcs (d : Byte)
  | bne (d : Byte)
  | beq (d : Byte)
  -- 45_system.md
  | brk
  | rti
  | nop
  /-- an unofficial no-op, by its opcode byte -/
  | unofficialNop (op : Byte) (operand : NopOperand)
  -- 60_exceptions.md
  /-- an unimplemented opcode, by its opcode byte -/
  | illegal (op : Byte)
deriving DecidableEq, Repr

end Sys2Proof
end

