-- ==== Sys2Proof/WellFormed.lean ====
section
/-! DEFINITION. Which terms of Instr are instructions of the machine: the operand forms of 30_encoding.md R108, and
for the two remaining classes of R107 the no-op set in force. -/

namespace Sys2Proof

/-- The names of the data addressing modes (30_encoding.md R92). -/
inductive Mode where
  | acc
  | imm
  | zp
  | zpx
  | zpy
  | abs
  | abx
  | aby
  | izx
  | izy
deriving DecidableEq, Repr

/-- The addressing mode of an operand. -/
def Operand.mode : Operand → Mode
  | .acc => .acc
  | .imm _ => .imm
  | .zp _ => .zp
  | .zpx _ => .zpx
  | .zpy _ => .zpy
  | .abs _ => .abs
  | .abx _ => .abx
  | .aby _ => .aby
  | .izx _ => .izx
  | .izy _ => .izy

/-- The length of an unofficial no-op with these operand bytes. -/
def NopOperand.length : NopOperand → NopLength
  | .none => .one
  | .byte _ => .two
  | .word _ => .three

/-- The 151 official opcode bytes (30_encoding.md R107 (1), R108), in ascending order. -/
def officialOpcodes : List Byte :=
  [0x00, 0x01, 0x05, 0x06, 0x08, 0x09, 0x0A, 0x0D, 0x0E, 0x10, 0x11, 0x15, 0x16, 0x18, 0x19, 0x1D, 0x1E, 0x20, 0x21] ++
  [0x24, 0x25, 0x26, 0x28, 0x29, 0x2A, 0x2C, 0x2D, 0x2E, 0x30, 0x31, 0x35, 0x36, 0x38, 0x39, 0x3D, 0x3E, 0x40, 0x41] ++
  [0x45, 0x46, 0x48, 0x49, 0x4A, 0x4C, 0x4D, 0x4E, 0x50, 0x51, 0x55, 0x56, 0x58, 0x59, 0x5D, 0x5E, 0x60, 0x61, 0x65] ++
  [0x66, 0x68, 0x69, 0x6A, 0x6C, 0x6D, 0x6E, 0x70, 0x71, 0x75, 0x76, 0x78, 0x79, 0x7D, 0x7E, 0x81, 0x84, 0x85, 0x86] ++
  [0x88, 0x8A, 0x8C, 0x8D, 0x8E, 0x90, 0x91, 0x94, 0x95, 0x96, 0x98, 0x99, 0x9A, 0x9D, 0xA0, 0xA1, 0xA2, 0xA4, 0xA5] ++
  [0xA6, 0xA8, 0xA9, 0xAA, 0xAC, 0xAD, 0xAE, 0xB0, 0xB1, 0xB4, 0xB5, 0xB6, 0xB8, 0xB9, 0xBA, 0xBC, 0xBD, 0xBE, 0xC0] ++
  [0xC1, 0xC4, 0xC5, 0xC6, 0xC8, 0xC9, 0xCA, 0xCC, 0xCD, 0xCE, 0xD0, 0xD1, 0xD5, 0xD6, 0xD8, 0xD9, 0xDD, 0xDE, 0xE0] ++
  [0xE1, 0xE4, 0xE5, 0xE6, 0xE8, 0xE9, 0xEA, 0xEC, 0xED, 0xEE, 0xF0, 0xF1, 0xF5, 0xF6, 0xF8, 0xF9, 0xFD, 0xFE]

/-- An instruction the encoding can express under the no-op set `nops`: each mnemonic with the modes of its row in
R108; an unofficial no-op whose opcode is in the set with that length and is no official opcode (R112); an
unimplemented opcode that is neither (R111). -/
def Instr.wf (nops : NopSet) : Instr → Bool
  | .lda m => m.mode ∈ [Mode.imm, .zp, .zpx, .abs, .abx, .aby, .izx, .izy]
  | .ldx m => m.mode ∈ [Mode.imm, .zp, .zpy, .abs, .aby]
  | .ldy m => m.mode ∈ [Mode.imm, .zp, .zpx, .abs, .abx]
  | .sta m => m.mode ∈ [Mode.zp, .zpx, .abs, .abx, .aby, .izx, .izy]
  | .stx m => m.mode ∈ [Mode.zp, .zpy, .abs]
  | .sty m => m.mode ∈ [Mode.zp, .zpx, .abs]
  | .adc m => m.mode ∈ [Mode.imm, .zp, .zpx, .abs, .abx, .aby, .izx, .izy]
  | .sbc m => m.mode ∈ [Mode.imm, .zp, .zpx, .abs, .abx, .aby, .izx, .izy]
  | .and m => m.mode ∈ [Mode.imm, .zp, .zpx, .abs, .abx, .aby, .izx, .izy]
  | .ora m => m.mode ∈ [Mode.imm, .zp, .zpx, .abs, .abx, .aby, .izx, .izy]
  | .eor m => m.mode ∈ [Mode.imm, .zp, .zpx, .abs, .abx, .aby, .izx, .izy]
  | .cmp m => m.mode ∈ [Mode.imm, .zp, .zpx, .abs, .abx, .aby, .izx, .izy]
  | .cpx m => m.mode ∈ [Mode.imm, .zp, .abs]
  | .cpy m => m.mode ∈ [Mode.imm, .zp, .abs]
  | .bit m => m.mode ∈ [Mode.zp, .abs]
  | .inc m => m.mode ∈ [Mode.zp, .zpx, .abs, .abx]
  | .dec m => m.mode ∈ [Mode.zp, .zpx, .abs, .abx]
  | .asl m => m.mode ∈ [Mode.acc, .zp, .zpx, .abs, .abx]
  | .lsr m => m.mode ∈ [Mode.acc, .zp, .zpx, .abs, .abx]
  | .rol m => m.mode ∈ [Mode.acc, .zp, .zpx, .abs, .abx]
  | .ror m => m.mode ∈ [Mode.acc, .zp, .zpx, .abs, .abx]
  | .unofficialNop op operand =>
    !officialOpcodes.contains op && nops.lengthOf op == some operand.length
  | .illegal op => !officialOpcodes.contains op && nops.lengthOf op == none
  | .tax | .tay | .txa | .tya | .tsx | .txs | .inx | .iny | .dex
  | .dey | .pha | .php | .pla | .plp | .clc | .sec | .cli | .sei
  | .cld | .sed | .clv | .rts | .brk | .rti | .nop => true
  | .jmpAbs _ | .jmpInd _ | .jsr _ => true
  | .bpl _ | .bmi _ | .bvc _ | .bvs _ | .bcc _ | .bcs _ | .bne _ | .beq _ => true

/-- A no-op set construction takes: no official opcode is a member (0xEA stays out, R112), a member of the default set
keeps its length (R112), and no opcode has two lengths. R7 and R112 give a set with two lengths for one opcode no
meaning; that it is refused is the model's choice (DESIGN CHOICE, log 25). -/
def NopSet.admissible (nops : NopSet) : Bool :=
  nops.all fun (op, n) =>
    !officialOpcodes.contains op && (nops.lengthOf op == some n) &&
      (NopSet.lengthOf Config.defaultNopSet op == none || NopSet.lengthOf Config.defaultNopSet op == some n)

end Sys2Proof
end

