-- ==== Sys2Proof/Decode.lean ====
section
/-! DEFINITION. Decoding (30_encoding.md R90, R107, R108, R110 to R113) and, after it, encoding, both from the opcode
map of R108 and the formats of R90. -/

namespace Sys2Proof

/-- The instruction of an official opcode (30_encoding.md R108, R110): `op` is byte 0, `lo` and `hi` are what stands
in bytes 1 and 2 (R90); a form that has fewer operand bytes ignores the rest. -/
def decodeOfficial (op lo hi : Byte) : Option Instr :=
  match op with
  | 0x00#8 => some .brk
  | 0x01#8 => some (.ora (.izx lo))
  | 0x05#8 => some (.ora (.zp lo))
  | 0x06#8 => some (.asl (.zp lo))
  | 0x08#8 => some .php
  | 0x09#8 => some (.ora (.imm lo))
  | 0x0A#8 => some (.asl .acc)
  | 0x0D#8 => some (.ora (.abs (wordOf hi lo)))
  | 0x0E#8 => some (.asl (.abs (wordOf hi lo)))
  | 0x10#8 => some (.bpl lo)
  | 0x11#8 => some (.ora (.izy lo))
  | 0x15#8 => some (.ora (.zpx lo))
  | 0x16#8 => some (.asl (.zpx lo))
  | 0x18#8 => some .clc
  | 0x19#8 => some (.ora (.aby (wordOf hi lo)))
  | 0x1D#8 => some (.ora (.abx (wordOf hi lo)))
  | 0x1E#8 => some (.asl (.abx (wordOf hi lo)))
  | 0x20#8 => some (.jsr (wordOf hi lo))
  | 0x21#8 => some (.and (.izx lo))
  | 0x24#8 => some (.bit (.zp lo))
  | 0x25#8 => some (.and (.zp lo))
  | 0x26#8 => some (.rol (.zp lo))
  | 0x28#8 => some .plp
  | 0x29#8 => some (.and (.imm lo))
  | 0x2A#8 => some (.rol .acc)
  | 0x2C#8 => some (.bit (.abs (wordOf hi lo)))
  | 0x2D#8 => some (.and (.abs (wordOf hi lo)))
  | 0x2E#8 => some (.rol (.abs (wordOf hi lo)))
  | 0x30#8 => some (.bmi lo)
  | 0x31#8 => some (.and (.izy lo))
  | 0x35#8 => some (.and (.zpx lo))
  | 0x36#8 => some (.rol (.zpx lo))
  | 0x38#8 => some .sec
  | 0x39#8 => some (.and (.aby (wordOf hi lo)))
  | 0x3D#8 => some (.and (.abx (wordOf hi lo)))
  | 0x3E#8 => some (.rol (.abx (wordOf hi lo)))
  | 0x40#8 => some .rti
  | 0x41#8 => some (.eor (.izx lo))
  | 0x45#8 => some (.eor (.zp lo))
  | 0x46#8 => some (.lsr (.zp lo))
  | 0x48#8 => some .pha
  | 0x49#8 => some (.eor (.imm lo))
  | 0x4A#8 => some (.lsr .acc)
  | 0x4C#8 => some (.jmpAbs (wordOf hi lo))
  | 0x4D#8 => some (.eor (.abs (wordOf hi lo)))
  | 0x4E#8 => some (.lsr (.abs (wordOf hi lo)))
  | 0x50#8 => some (.bvc lo)
  | 0x51#8 => some (.eor (.izy lo))
  | 0x55#8 => some (.eor (.zpx lo))
  | 0x56#8 => some (.lsr (.zpx lo))
  | 0x58#8 => some .cli
  | 0x59#8 => some (.eor (.aby (wordOf hi lo)))
  | 0x5D#8 => some (.eor (.abx (wordOf hi lo)))
  | 0x5E#8 => some (.lsr (.abx (wordOf hi lo)))
  | 0x60#8 => some .rts
  | 0x61#8 => some (.adc (.izx lo))
  | 0x65#8 => some (.adc (.zp lo))
  | 0x66#8 => some (.ror (.zp lo))
  | 0x68#8 => some .pla
  | 0x69#8 => some (.adc (.imm lo))
  | 0x6A#8 => some (.ror .acc)
  | 0x6C#8 => some (.jmpInd (wordOf hi lo))
  | 0x6D#8 => some (.adc (.abs (wordOf hi lo)))
  | 0x6E#8 => some (.ror (.abs (wordOf hi lo)))
  | 0x70#8 => some (.bvs lo)
  | 0x71#8 => some (.adc (.izy lo))
  | 0x75#8 => some (.adc (.zpx lo))
  | 0x76#8 => some (.ror (.zpx lo))
  | 0x78#8 => some .sei
  | 0x79#8 => some (.adc (.aby (wordOf hi lo)))
  | 0x7D#8 => some (.adc (.abx (wordOf hi lo)))
  | 0x7E#8 => some (.ror (.abx (wordOf hi lo)))
  | 0x81#8 => some (.sta (.izx lo))
  | 0x84#8 => some (.sty (.zp lo))
  | 0x85#8 => some (.sta (.zp lo))
  | 0x86#8 => some (.stx (.zp lo))
  | 0x88#8 => some .dey
  | 0x8A#8 => some .txa
  | 0x8C#8 => some (.sty (.abs (wordOf hi lo)))
  | 0x8D#8 => some (.sta (.abs (wordOf hi lo)))
  | 0x8E#8 => some (.stx (.abs (wordOf hi lo)))
  | 0x90#8 => some (.bcc lo)
  | 0x91#8 => some (.sta (.izy lo))
  | 0x94#8 => some (.sty (.zpx lo))
  | 0x95#8 => some (.sta (.zpx lo))
  | 0x96#8 => some (.stx (.zpy lo))
  | 0x98#8 => some .tya
  | 0x99#8 => some (.sta (.aby (wordOf hi lo)))
  | 0x9A#8 => some .txs
  | 0x9D#8 => some (.sta (.abx (wordOf hi lo)))
  | 0xA0#8 => some (.ldy (.imm lo))
  | 0xA1#8 => some (.lda (.izx lo))
  | 0xA2#8 => some (.ldx (.imm lo))
  | 0xA4#8 => some (.ldy (.zp lo))
  | 0xA5#8 => some (.lda (.zp lo))
  | 0xA6#8 => some (.ldx (.zp lo))
  | 0xA8#8 => some .tay
  | 0xA9#8 => some (.lda (.imm lo))
  | 0xAA#8 => some .tax
  | 0xAC#8 => some (.ldy (.abs (wordOf hi lo)))
  | 0xAD#8 => some (.lda (.abs (wordOf hi lo)))
  | 0xAE#8 => some (.ldx (.abs (wordOf hi lo)))
  | 0xB0#8 => some (.bcs lo)
  | 0xB1#8 => some (.lda (.izy lo))
  | 0xB4#8 => some (.ldy (.zpx lo))
  | 0xB5#8 => some (.lda (.zpx lo))
  | 0xB6#8 => some (.ldx (.zpy lo))
  | 0xB8#8 => some .clv
  | 0xB9#8 => some (.lda (.aby (wordOf hi lo)))
  | 0xBA#8 => some .tsx
  | 0xBC#8 => some (.ldy (.abx (wordOf hi lo)))
  | 0xBD#8 => some (.lda (.abx (wordOf hi lo)))
  | 0xBE#8 => some (.ldx (.aby (wordOf hi lo)))
  | 0xC0#8 => some (.cpy (.imm lo))
  | 0xC1#8 => some (.cmp (.izx lo))
  | 0xC4#8 => some (.cpy (.zp lo))
  | 0xC5#8 => some (.cmp (.zp lo))
  | 0xC6#8 => some (.dec (.zp lo))
  | 0xC8#8 => some .iny
  | 0xC9#8 => some (.cmp (.imm lo))
  | 0xCA#8 => some .dex
  | 0xCC#8 => some (.cpy (.abs (wordOf hi lo)))
  | 0xCD#8 => some (.cmp (.abs (wordOf hi lo)))
  | 0xCE#8 => some (.dec (.abs (wordOf hi lo)))
  | 0xD0#8 => some (.bne lo)
  | 0xD1#8 => some (.cmp (.izy lo))
  | 0xD5#8 => some (.cmp (.zpx lo))
  | 0xD6#8 => some (.dec (.zpx lo))
  | 0xD8#8 => some .cld
  | 0xD9#8 => some (.cmp (.aby (wordOf hi lo)))
  | 0xDD#8 => some (.cmp (.abx (wordOf hi lo)))
  | 0xDE#8 => some (.dec (.abx (wordOf hi lo)))
  | 0xE0#8 => some (.cpx (.imm lo))
  | 0xE1#8 => some (.sbc (.izx lo))
  | 0xE4#8 => some (.cpx (.zp lo))
  | 0xE5#8 => some (.sbc (.zp lo))
  | 0xE6#8 => some (.inc (.zp lo))
  | 0xE8#8 => some .inx
  | 0xE9#8 => some (.sbc (.imm lo))
  | 0xEA#8 => some .nop
  | 0xEC#8 => some (.cpx (.abs (wordOf hi lo)))
  | 0xED#8 => some (.sbc (.abs (wordOf hi lo)))
  | 0xEE#8 => some (.inc (.abs (wordOf hi lo)))
  | 0xF0#8 => some (.beq lo)
  | 0xF1#8 => some (.sbc (.izy lo))
  | 0xF5#8 => some (.sbc (.zpx lo))
  | 0xF6#8 => some (.inc (.zpx lo))
  | 0xF8#8 => some .sed
  | 0xF9#8 => some (.sbc (.aby (wordOf hi lo)))
  | 0xFD#8 => some (.sbc (.abx (wordOf hi lo)))
  | 0xFE#8 => some (.inc (.abx (wordOf hi lo)))
  | _ => none

/-- Decode is total (30_encoding.md R107): an official opcode, else a member of the no-op set (R112), else an
unimplemented opcode (R111). -/
def decodeBytes (nops : NopSet) (op lo hi : Byte) : Instr :=
  match decodeOfficial op lo hi with
  | some i => i
  | none =>
    match nops.lengthOf op with
    | some .one => .unofficialNop op .none
    | some .two => .unofficialNop op (.byte lo)
    | some .three => .unofficialNop op (.word (wordOf hi lo))
    | none => .illegal op

/-- The number of bytes of an operand (the column "operand bytes" of 30_encoding.md R92). -/
def Operand.operandBytes : Operand → Nat
  | .acc => 0
  | .imm _ | .zp _ | .zpx _ | .zpy _ | .izx _ | .izy _ => 1
  | .abs _ | .abx _ | .aby _ => 2

/-- The length of an instruction in bytes: 1 and the operand bytes of its mode (30_encoding.md R90, R113). BRK's
padding byte is not part of it (45_system.md R215), and of an unimplemented opcode only the opcode is fetched. -/
def Instr.length : Instr → Nat
  | .lda m | .ldx m | .ldy m | .sta m | .stx m | .sty m => 1 + m.operandBytes
  | .adc m | .sbc m | .and m | .ora m | .eor m => 1 + m.operandBytes
  | .cmp m | .cpx m | .cpy m | .bit m | .inc m | .dec m => 1 + m.operandBytes
  | .asl m | .lsr m | .rol m | .ror m => 1 + m.operandBytes
  | .jmpAbs _ | .jmpInd _ | .jsr _ => 3
  | .bpl _ | .bmi _ | .bvc _ | .bvs _ | .bcc _ | .bcs _ | .bne _ | .beq _ => 2
  | .unofficialNop _ .none => 1
  | .unofficialNop _ (.byte _) => 2
  | .unofficialNop _ (.word _) => 3
  | .tax | .tay | .txa | .tya | .tsx | .txs => 1
  | .inx | .iny | .dex | .dey => 1
  | .pha | .php | .pla | .plp | .clc | .sec | .cli | .sei | .cld | .sed | .clv => 1
  | .rts | .brk | .rti | .nop | .illegal _ => 1

/-- Why a list of bytes does not hold an instruction. Every opcode byte decodes, so the only reason is that the list
ends before the instruction does. -/
inductive DecodeError where
  /-- no byte at all -/
  | noOpcode
  /-- an operand byte is missing -/
  | missingOperand (op : Byte)
deriving DecidableEq, Repr

/-- The instruction at the head of a list of bytes, with the bytes after it. -/
def decode (nops : NopSet) : List Byte → Except DecodeError (Instr × List Byte)
  | [] => .error .noOpcode
  | op :: rest =>
    match (decodeBytes nops op 0 0).length, rest with
    | 1, rest => .ok (decodeBytes nops op 0 0, rest)
    | 2, lo :: rest => .ok (decodeBytes nops op lo 0, rest)
    | 3, lo :: hi :: rest => .ok (decodeBytes nops op lo hi, rest)
    | _, _ => .error (.missingOperand op)

/-- The instruction of a row of the opcode table: `w` holds the bytes, the first least significant, and every byte
above the row's `nbits` is 0. -/
def decodeTableWord (nbits w : Nat) : Option Instr :=
  let v := w % 2 ^ nbits
  let bytes := [BitVec.ofNat 8 v, BitVec.ofNat 8 (v / 2 ^ 8), BitVec.ofNat 8 (v / 2 ^ 16)]
  match decode Config.defaultNopSet bytes with
  | .ok (i, _) => some i
  | .error _ => none

/-- The bytes of an instruction in ascending address order (30_encoding.md R90, R108; 20_memory.md R77). A term that
is not well-formed has no encoding. -/
def encode : Instr → List Byte
  | .lda m =>
    match m with
    | .imm b => [0xA9, b]
    | .zp b => [0xA5, b]
    | .zpx b => [0xB5, b]
    | .abs w => [0xAD, loByte w, hiByte w]
    | .abx w => [0xBD, loByte w, hiByte w]
    | .aby w => [0xB9, loByte w, hiByte w]
    | .izx b => [0xA1, b]
    | .izy b => [0xB1, b]
    | _ => []
  | .ldx m =>
    match m with
    | .imm b => [0xA2, b]
    | .zp b => [0xA6, b]
    | .zpy b => [0xB6, b]
    | .abs w => [0xAE, loByte w, hiByte w]
    | .aby w => [0xBE, loByte w, hiByte w]
    | _ => []
  | .ldy m =>
    match m with
    | .imm b => [0xA0, b]
    | .zp b => [0xA4, b]
    | .zpx b => [0xB4, b]
    | .abs w => [0xAC, loByte w, hiByte w]
    | .abx w => [0xBC, loByte w, hiByte w]
    | _ => []
  | .sta m =>
    match m with
    | .zp b => [0x85, b]
    | .zpx b => [0x95, b]
    | .abs w => [0x8D, loByte w, hiByte w]
    | .abx w => [0x9D, loByte w, hiByte w]
    | .aby w => [0x99, loByte w, hiByte w]
    | .izx b => [0x81, b]
    | .izy b => [0x91, b]
    | _ => []
  | .stx m =>
    match m with
    | .zp b => [0x86, b]
    | .zpy b => [0x96, b]
    | .abs w => [0x8E, loByte w, hiByte w]
    | _ => []
  | .sty m =>
    match m with
    | .zp b => [0x84, b]
    | .zpx b => [0x94, b]
    | .abs w => [0x8C, loByte w, hiByte w]
    | _ => []
  | .tax => [0xAA]
  | .tay => [0xA8]
  | .txa => [0x8A]
  | .tya => [0x98]
  | .tsx => [0xBA]
  | .txs => [0x9A]
  | .adc m =>
    match m with
    | .imm b => [0x69, b]
    | .zp b => [0x65, b]
    | .zpx b => [0x75, b]
    | .abs w => [0x6D, loByte w, hiByte w]
    | .abx w => [0x7D, loByte w, hiByte w]
    | .aby w => [0x79, loByte w, hiByte w]
    | .izx b => [0x61, b]
    | .izy b => [0x71, b]
    | _ => []
  | .sbc m =>
    match m with
    | .imm b => [0xE9, b]
    | .zp b => [0xE5, b]
    | .zpx b => [0xF5, b]
    | .abs w => [0xED, loByte w, hiByte w]
    | .abx w => [0xFD, loByte w, hiByte w]
    | .aby w => [0xF9, loByte w, hiByte w]
    | .izx b => [0xE1, b]
    | .izy b => [0xF1, b]
    | _ => []
  | .and m =>
    match m with
    | .imm b => [0x29, b]
    | .zp b => [0x25, b]
    | .zpx b => [0x35, b]
    | .abs w => [0x2D, loByte w, hiByte w]
    | .abx w => [0x3D, loByte w, hiByte w]
    | .aby w => [0x39, loByte w, hiByte w]
    | .izx b => [0x21, b]
    | .izy b => [0x31, b]
    | _ => []
  | .ora m =>
    match m with
    | .imm b => [0x09, b]
    | .zp b => [0x05, b]
    | .zpx b => [0x15, b]
    | .abs w => [0x0D, loByte w, hiByte w]
    | .abx w => [0x1D, loByte w, hiByte w]
    | .aby w => [0x19, loByte w, hiByte w]
    | .izx b => [0x01, b]
    | .izy b => [0x11, b]
    | _ => []
  | .eor m =>
    match m with
    | .imm b => [0x49, b]
    | .zp b => [0x45, b]
    | .zpx b => [0x55, b]
    | .abs w => [0x4D, loByte w, hiByte w]
    | .abx w => [0x5D, loByte w, hiByte w]
    | .aby w => [0x59, loByte w, hiByte w]
    | .izx b => [0x41, b]
    | .izy b => [0x51, b]
    | _ => []
  | .cmp m =>
    match m with
    | .imm b => [0xC9, b]
    | .zp b => [0xC5, b]
    | .zpx b => [0xD5, b]
    | .abs w => [0xCD, loByte w, hiByte w]
    | .abx w => [0xDD, loByte w, hiByte w]
    | .aby w => [0xD9, loByte w, hiByte w]
    | .izx b => [0xC1, b]
    | .izy b => [0xD1, b]
    | _ => []
  | .cpx m =>
    match m with
    | .imm b => [0xE0, b]
    | .zp b => [0xE4, b]
    | .abs w => [0xEC, loByte w, hiByte w]
    | _ => []
  | .cpy m =>
    match m with
    | .imm b => [0xC0, b]
    | .zp b => [0xC4, b]
    | .abs w => [0xCC, loByte w, hiByte w]
    | _ => []
  | .bit m =>
    match m with
    | .zp b => [0x24, b]
    | .abs w => [0x2C, loByte w, hiByte w]
    | _ => []
  | .inc m =>
    match m with
    | .zp b => [0xE6, b]
    | .zpx b => [0xF6, b]
    | .abs w => [0xEE, loByte w, hiByte w]
    | .abx w => [0xFE, loByte w, hiByte w]
    | _ => []
  | .dec m =>
    match m with
    | .zp b => [0xC6, b]
    | .zpx b => [0xD6, b]
    | .abs w => [0xCE, loByte w, hiByte w]
    | .abx w => [0xDE, loByte w, hiByte w]
    | _ => []
  | .inx => [0xE8]
  | .iny => [0xC8]
  | .dex => [0xCA]
  | .dey => [0x88]
  | .asl m =>
    match m with
    | .acc => [0x0A]
    | .zp b => [0x06, b]
    | .zpx b => [0x16, b]
    | .abs w => [0x0E, loByte w, hiByte w]
    | .abx w => [0x1E, loByte w, hiByte w]
    | _ => []
  | .lsr m =>
    match m with
    | .acc => [0x4A]
    | .zp b => [0x46, b]
    | .zpx b => [0x56, b]
    | .abs w => [0x4E, loByte w, hiByte w]
    | .abx w => [0x5E, loByte w, hiByte w]
    | _ => []
  | .rol m =>
    match m with
    | .acc => [0x2A]
    | .zp b => [0x26, b]
    | .zpx b => [0x36, b]
    | .abs w => [0x2E, loByte w, hiByte w]
    | .abx w => [0x3E, loByte w, hiByte w]
    | _ => []
  | .ror m =>
    match m with
    | .acc => [0x6A]
    | .zp b => [0x66, b]
    | .zpx b => [0x76, b]
    | .abs w => [0x6E, loByte w, hiByte w]
    | .abx w => [0x7E, loByte w, hiByte w]
    | _ => []
  | .pha => [0x48]
  | .php => [0x08]
  | .pla => [0x68]
  | .plp => [0x28]
  | .clc => [0x18]
  | .sec => [0x38]
  | .cli => [0x58]
  | .sei => [0x78]
  | .cld => [0xD8]
  | .sed => [0xF8]
  | .clv => [0xB8]
  | .jmpAbs w => [0x4C, loByte w, hiByte w]
  | .jmpInd w => [0x6C, loByte w, hiByte w]
  | .jsr w => [0x20, loByte w, hiByte w]
  | .rts => [0x60]
  | .bpl d => [0x10, d]
  | .bmi d => [0x30, d]
  | .bvc d => [0x50, d]
  | .bvs d => [0x70, d]
  | .bcc d => [0x90, d]
  | .bcs d => [0xB0, d]
  | .bne d => [0xD0, d]
  | .beq d => [0xF0, d]
  | .brk => [0x00]
  | .rti => [0x40]
  | .nop => [0xEA]
  | .unofficialNop op .none => [op]
  | .unofficialNop op (.byte b) => [op, b]
  | .unofficialNop op (.word w) => [op, loByte w, hiByte w]
  | .illegal op => [op]

end Sys2Proof
end

