-- ==== Sys2Proof/Machine/State.lean ====
section
/-! DEFINITION. The state of CORE as plain data (10_state.md), the reasons a step can stop, and the state after
reset. -/

namespace Sys2Proof.Machine

/-- A byte store: (index, byte) pairs in canonical form, indexes strictly rising, no entry equal to `blankByte`.
RAM, SCRATCH, MM.CHRRAM, PRG and CHR are each one such store, indexed as their rules index them. -/
abbrev Memory := List Host.Cell

/-- What an unlisted index of a store reads as: 0x00 (SCRATCH: 10_state.md R35; the others: DESIGN CHOICE,
log 1, 5, 12). -/
def blankByte : Byte := 0x00

/-- The eight video register ports by function, in the order of their index 0 to 7 (10_state.md R32). -/
inductive Port where
  | control
  | mask
  | status
  | oamAddress
  | oamData
  | scroll
  | address
  | data
deriving DecidableEq, Repr

/-- The latches VR[0..7] (10_state.md R32). -/
structure VideoPorts where
  control : Byte
  mask : Byte
  status : Byte
  oamAddress : Byte
  oamData : Byte
  scroll : Byte
  address : Byte
  data : Byte
deriving DecidableEq, Repr

/-- The event VW(i, v) sent to the video chip by a store to port i (20_memory.md R48). -/
structure VideoWrite where
  port : Port
  value : Byte
deriving DecidableEq, Repr

/-- IMAGE, the parsed cartridge image, immutable during a session (10_state.md R26). -/
structure Image where
  prgUnits : Byte
  chrUnits : Byte
  flags6 : Byte
  flags7 : Byte
  prgRamSize : Byte
  prg : Memory
  chr : Memory
deriving DecidableEq, Repr

/-- The state of the MMC1-class variant (10_state.md R29). -/
structure Mmc1 where
  shift : BitVec 5
  count : BitVec 3
  control : BitVec 5
  chr0 : BitVec 5
  chr1 : BitVec 5
  prgb : BitVec 5
  chrRam : Memory
deriving DecidableEq, Repr

/-- The Mapper: which variant it is, with that variant's mutable state (10_state.md R27 to R29, R34 (d)). -/
inductive Mapper where
  | nrom
  | mmc1 (m : Mmc1)
  | test (scratch : Memory)
deriving DecidableEq, Repr

/-- The register dump of a fatal condition: A, X, Y, S, P, PC (60_exceptions.md R230). -/
structure RegisterDump where
  a : Byte
  x : Byte
  y : Byte
  sp : Byte
  p : Byte
  pc : Word
deriving DecidableEq, Repr

/-- The fatal conditions with the information recorded (60_exceptions.md R230). -/
inductive Fatal where
  /-- R231 -/
  | unimplementedOpcode (op : Byte) (dump : RegisterDump)
  /-- R232 -/
  | immediateStore (dump : RegisterDump)
  /-- R233, at construction only -/
  | unsupportedMapper (number : Byte)
deriving DecidableEq, Repr

/-- The machine status (10_state.md R33). -/
inductive Status where
  | running
  | halted (why : Fatal)
deriving DecidableEq, Repr

/-- What the external video agent put into the three readable latches in one move (20_memory.md R80). -/
structure AgentMove where
  status : Byte
  oamData : Byte
  data : Byte
deriving DecidableEq, Repr

/-- What happened outside CORE between two steps: a move of the video agent, if it made one (20_memory.md R80), and
whether the NMI request was raised (60_exceptions.md R237). -/
structure Boundary where
  agent : Option AgentMove
  nmi : Bool
deriving DecidableEq, Repr

/-- The state of CORE. INVENTORY.md lists each field with its rule and its value at reset. -/
structure State where
  /-- A (R13) -/
  a : Byte
  /-- X (R13) -/
  x : Byte
  /-- Y (R13) -/
  y : Byte
  /-- S, the stack pointer (R15) -/
  sp : Byte
  /-- P, the status register (R16) -/
  p : Byte
  /-- PC (R14) -/
  pc : Word
  /-- RAM[0..0x7FF] (R25) -/
  ram : Memory
  /-- VR[0..7] (R32) -/
  ports : VideoPorts
  /-- The VW events so far, newest first (20_memory.md R48, log 15) -/
  videoLog : List VideoWrite
  /-- IMAGE (R26) -/
  image : Image
  /-- The Mapper variant and its state (R27 to R29) -/
  mapper : Mapper
  /-- Running or Halted (R33) -/
  status : Status
  /-- nmi_pending (60_exceptions.md R237) -/
  nmiPending : Bool
  /-- The parameters of 00_scope.md R7 that choose a behaviour -/
  params : Params
  /-- The model's own field: what will happen outside CORE at the coming step boundaries, the next one first (log 7) -/
  outside : List Boundary
deriving DecidableEq, Repr

/-- Why a step stops without a next state. -/
inductive Fault where
  /-- Raised by `step` alone, when the status is Halted: "In `Halted` no step is possible" (10_state.md R33). Safe:
  the machine stops in the state the fatal condition left. -/
  | halted (why : Fatal)
deriving DecidableEq, Repr

/-- Why an instruction has no meaning in the model. -/
inductive Refusal where
  /-- Raised by an arm of `exec` whose instruction has no meaning yet; no arm is left that raises it. Safe. -/
  | notModelled (mnemonic : String)
deriving DecidableEq, Repr

/-- What an instruction's meaning, and a step, answers. -/
abbrev Result := Host.Outcome State Fault Refusal

/-- All eight latches at 0x00 (D2's recommended value; DESIGN CHOICE, log 4). -/
def VideoPorts.cleared : VideoPorts where
  control := 0x00
  mask := 0x00
  status := 0x00
  oamAddress := 0x00
  oamData := 0x00
  scroll := 0x00
  address := 0x00
  data := 0x00

/-- The blank cartridge of the reset state: a 16 KB NROM image, mapper number 0, with every byte 0x00 (DESIGN CHOICE,
log 3: the image is a parameter, and no program is put here). -/
def Image.blank : Image where
  prgUnits := 1
  chrUnits := 1
  flags6 := 0x00
  flags7 := 0x00
  prgRamSize := 0x00
  prg := []
  chr := []

/-- The machine right after reset: constructed with the recommended register values of decision D1 (DESIGN CHOICE,
log 2), RAM and latches at 0x00 (log 1, log 4), the blank cartridge (log 3) and the default parameters (log 6), then
`reset`, which loads PC from 0xFFFC (70_reset_and_hazards.md R261): both bytes of the blank image's vector are 0x00.
Laws/Driver.lean proves that construction and the reset operation give exactly this state. -/
def State.reset : State where
  a := 0x00
  x := 0x00
  y := 0x00
  sp := 0xFD
  p := 0x24
  pc := 0x0000
  ram := []
  ports := VideoPorts.cleared
  videoLog := []
  image := Image.blank
  mapper := .nrom
  status := .running
  nmiPending := false
  params := Config.defaultParams
  outside := []

end Sys2Proof.Machine
end

