-- ==== Sys2Proof/Machine/Memory.lean ====
section
/-! DEFINITION. Byte stores in canonical form: reading and writing one byte, and the form itself. -/

namespace Sys2Proof.Machine

/-- The byte at index `i`. -/
def Memory.read : Memory → Nat → Byte
  | [], _ => blankByte
  | (k, v) :: rest, i => if i = k then v else Memory.read rest i

/-- The store with byte `v` at index `i`; writing what an unlisted index reads as removes the entry. -/
def Memory.write : Memory → Nat → Byte → Memory
  | [], i, v => if v = blankByte then [] else [(i, v)]
  | (k, w) :: rest, i, v =>
    if i < k then if v = blankByte then (k, w) :: rest else (i, v) :: (k, w) :: rest
    else if i = k then if v = blankByte then rest else (i, v) :: rest
    else (k, w) :: Memory.write rest i v

/-- The bytes `bs` written at consecutive indexes from `i`. -/
def Memory.writeList : Memory → Nat → List Byte → Memory
  | m, _, [] => m
  | m, i, b :: bs => Memory.writeList (Memory.write m i b) (i + 1) bs

/-- Every listed index is at least `low`, the indexes rise strictly, and no entry reads as an unlisted one. -/
def Memory.wfFrom : Nat → Memory → Bool
  | _, [] => true
  | low, (k, v) :: rest => decide (low ≤ k) && (v != blankByte) && Memory.wfFrom (k + 1) rest

/-- The canonical form. -/
def Memory.wf (m : Memory) : Bool := Memory.wfFrom 0 m

/-- Every listed index is below `size`. -/
def Memory.within (size : Nat) (m : Memory) : Bool := m.all fun c => decide (c.1 < size)

end Sys2Proof.Machine
end

