-- ==== Sys2Proof/Machine/Mapper.lean ====
section
/-! DEFINITION. The Mapper: selection, and the PRG and CHR ports of its three variants (20_memory.md R61 to R76). -/

namespace Sys2Proof.Machine

/-- The variants by name (00_scope.md R7, MAPPER_KIND). -/
inductive MapperKind where
  | nrom
  | mmc1
  | test
deriving DecidableEq, Repr

/-- `identify`: which variant the Mapper is (20_memory.md R61). -/
def Mapper.identify : Mapper → MapperKind
  | .nrom => .nrom
  | .mmc1 _ => .mmc1
  | .test _ => .test

/-- `expose image` (20_memory.md R61). -/
def State.exposeImage (s : State) : Image := s.image

/-- The mapper number `(flags_7 & 0xF0) | (flags_6 >> 4)` (10_state.md R26, 20_memory.md R62). -/
def Image.mapperNumber (img : Image) : Byte := (img.flags7 &&& 0xF0) ||| (img.flags6 >>> 4)

/-- `select_mapper` (20_memory.md R62): 0 is NROM, 1 the MMC1-class variant, any other number fatal. -/
def selectMapper (img : Image) : Except Fatal MapperKind :=
  if img.mapperNumber = 0 then .ok .nrom
  else if img.mapperNumber = 1 then .ok .mmc1
  else .error (.unsupportedMapper img.mapperNumber)

/-- The length of PRG in bytes (10_state.md R26). -/
def Image.prgLength (img : Image) : Nat := img.prgUnits.toNat * 16384

/-- The length of CHR in bytes (10_state.md R26). -/
def Image.chrLength (img : Image) : Nat := img.chrUnits.toNat * 8192

/-- The PRG offset NROM reads for bus address `a`: a 15-bit mask for a 32 KB image, a 14-bit mask for a 16 KB image
(20_memory.md R63); no other image size has an answer. -/
def Image.nromOffset (img : Image) (a : Word) : Option Nat :=
  if img.prgUnits = 2 then some (a &&& 0x7FFF#16).toNat
  else if img.prgUnits = 1 then some (a &&& 0x3FFF#16).toNat
  else none

/-- MM.control[3:2], the PRG bank mode (10_state.md R29). -/
def Mmc1.prgMode (m : Mmc1) : BitVec 2 := m.control.extractLsb' 2 2

/-- MM.control[4], the CHR bank mode (10_state.md R29). -/
def Mmc1.chrMode (m : Mmc1) : Bool := m.control.getLsbD 4

/-- MM.prgb[3:0], the PRG bank (10_state.md R29). -/
def Mmc1.prgBank (m : Mmc1) : BitVec 4 := m.prgb.setWidth 4

/-- The PRG offset the MMC1-class variant reads for bus address `a` from 0x8000 up (20_memory.md R70, decision D12);
an image with no PRG has no answer (R73). -/
def Image.mmc1Offset (img : Image) (m : Mmc1) (a : Word) : Option Nat :=
  if img.prgUnits = 0 then none
  else
    let n := img.prgUnits.toNat
    let b := m.prgBank
    let low := (a &&& 0x3FFF#16).toNat
    let off :=
      if m.prgMode = 0 ∨ m.prgMode = 1 then (b &&& 0xE#4).toNat * 0x4000 + (a &&& 0x7FFF#16).toNat
      else if m.prgMode = 2 then
        if a.toNat < 0xC000 then low else b.toNat * 0x4000 + low
      else if a.toNat < 0xC000 then b.toNat * 0x4000 + low
      else (n - 1) * 0x4000 + low
    some (off % img.prgLength)

/-- The PRG byte at an offset; with no offset, the free value of log 11. -/
def Image.prgByte (img : Image) (off : Option Nat) (a : Word) : Byte :=
  match off with
  | some k => Memory.read img.prg k
  | none => Config.unfitPrgByte a.toNat

/-- The SCRATCH index of a bus address in 0x6000 to 0x7FFF (20_memory.md R75). -/
def scratchIndex (a : Word) : Nat := a.toNat - 0x6000

/-- `PrgLoad(a)`, a in 0x6000 to 0xFFFF, of the variant built (20_memory.md R50, R63, R70, R71, R75). -/
def State.prgLoad (s : State) (a : Word) : Byte :=
  match s.mapper with
  | .nrom => s.image.prgByte (s.image.nromOffset a) a
  | .mmc1 m => if a.toNat < 0x8000 then 0x00 else s.image.prgByte (s.image.mmc1Offset m a) a
  | .test scratch =>
    if a.toNat < 0x8000 then Memory.read scratch (scratchIndex a)
    else s.image.prgByte (s.image.nromOffset a) a

/-- The internal register a completed group of five loads, by bits 14:13 of the fifth store's address
(20_memory.md R68, R69). -/
def Mmc1.loadRegister (m : Mmc1) (r : BitVec 2) (v : BitVec 5) : Mmc1 :=
  if r = 0 then { m with control := v }
  else if r = 1 then { m with chr0 := v }
  else if r = 2 then { m with chr1 := v }
  else { m with prgb := v }

/-- The shift register after bit 0 of `v` has entered at bit 4 (20_memory.md R68). -/
def Mmc1.shifted (m : Mmc1) (v : Byte) : BitVec 5 := (m.shift >>> 1) ||| (v.setWidth 1 ++ (0 : BitVec 4))

/-- One store to 0x8000 to 0xFFFF of the MMC1-class variant: the serial write protocol (20_memory.md R68,
decision D10). -/
def Mmc1.serialStore (m : Mmc1) (a : Word) (v : Byte) : Mmc1 :=
  if v.getLsbD 7 then { m with shift := 0, count := 0, control := m.control ||| 0x0C }
  else if m.count + 1 = 5 then
    { m.loadRegister (a.extractLsb' 13 2) (m.shifted v) with shift := 0, count := 0 }
  else { m with shift := m.shifted v, count := m.count + 1 }

/-- The Mapper after `PrgStore(a, v)`, a in 0x6000 to 0xFFFF (20_memory.md R64, R68, R71, R75). -/
def Mapper.prgStore (mapper : Mapper) (a : Word) (v : Byte) : Mapper :=
  match mapper with
  | .nrom => .nrom
  | .mmc1 m => if a.toNat < 0x8000 then .mmc1 m else .mmc1 (m.serialStore a v)
  | .test scratch =>
    if a.toNat < 0x8000 then .test (Memory.write scratch (scratchIndex a) v) else .test scratch

/-- The CHR offset the MMC1-class variant reads for CHR address `c` (20_memory.md R72), before the wrap at the
image's length. -/
def Mmc1.chrOffset (m : Mmc1) (c : BitVec 13) : Nat :=
  if m.chrMode = false then (m.chr0 &&& 0x1E#5).toNat * 0x1000 + c.toNat
  else if c.toNat < 0x1000 then m.chr0.toNat * 0x1000 + c.toNat
  else m.chr1.toNat * 0x1000 + (c &&& 0x0FFF#13).toNat

/-- `ChrLoad(c)` (20_memory.md R65, R72, R76). `none` is a refused read: an index beyond an NROM image
(decision D8). -/
def State.chrLoad (s : State) (c : BitVec 13) : Option Byte :=
  match s.mapper with
  | .nrom => if c.toNat < s.image.chrLength then some (Memory.read s.image.chr c.toNat) else none
  | .mmc1 m =>
    if s.image.chrUnits = 0 then some (Memory.read m.chrRam c.toNat)
    else some (Memory.read s.image.chr (m.chrOffset c % s.image.chrLength))
  | .test _ => some 0x00

/-- `ChrStore(c, v)` (20_memory.md R65, R72, R76). In a Halted machine it stores nothing: there "no state changes ever
again" (10_state.md R33, log 13). -/
def State.chrStore (s : State) (c : BitVec 13) (v : Byte) : State :=
  match s.status, s.mapper with
  | .running, .mmc1 m =>
    if s.image.chrUnits = 0 then { s with mapper := .mmc1 { m with chrRam := Memory.write m.chrRam c.toNat v } }
    else s
  | .running, .nrom | .running, .test _ | .halted _, _ => s

end Sys2Proof.Machine
end

