-- ==== Sys2Proof/Machine/Bus.lean ====
section
/-! DEFINITION. The Bus: range dispatch of a 16-bit address to RAM, the video register ports, open bus or the Mapper
(20_memory.md R40 to R50, R54). -/

namespace Sys2Proof.Machine

/-- The RAM index of a bus address below 0x2000: `a & 0x07FF` (20_memory.md R41, R44). -/
def ramIndex (a : Word) : Nat := (a &&& 0x07FF#16).toNat

/-- The port a bus address in 0x2000 to 0x3FFF selects: index `a & 7` (20_memory.md R46, 10_state.md R32). -/
def portOf (a : Word) : Port :=
  match a.toNat % 8 with
  | 0 => .control
  | 1 => .mask
  | 2 => .status
  | 3 => .oamAddress
  | 4 => .oamData
  | 5 => .scroll
  | 6 => .address
  | _ => .data

/-- The index of a port (10_state.md R32). -/
def Port.index : Port → Nat
  | .control => 0
  | .mask => 1
  | .status => 2
  | .oamAddress => 3
  | .oamData => 4
  | .scroll => 5
  | .address => 6
  | .data => 7

/-- The latch VR[i]. -/
def VideoPorts.latch (r : VideoPorts) : Port → Byte
  | .control => r.control
  | .mask => r.mask
  | .status => r.status
  | .oamAddress => r.oamAddress
  | .oamData => r.oamData
  | .scroll => r.scroll
  | .address => r.address
  | .data => r.data

/-- The latches with VR[i] replaced. -/
def VideoPorts.setLatch (r : VideoPorts) (i : Port) (v : Byte) : VideoPorts :=
  match i with
  | .control => { r with control := v }
  | .mask => { r with mask := v }
  | .status => { r with status := v }
  | .oamAddress => { r with oamAddress := v }
  | .oamData => { r with oamData := v }
  | .scroll => { r with scroll := v }
  | .address => { r with address := v }
  | .data => { r with data := v }

/-- Which ports return their latch on a load (20_memory.md R47; port 3 by decision D13). -/
def Port.readable : Port → Bool
  | .status | .oamData | .data => true
  | .control | .mask | .oamAddress | .scroll | .address => false

/-- Which ports take a store: all but status (20_memory.md R48). -/
def Port.writable : Port → Bool
  | .status => false
  | .control | .mask | .oamAddress | .oamData | .scroll | .address | .data => true

/-- `VRegRead(i)` (20_memory.md R47). -/
def VideoPorts.read (r : VideoPorts) (i : Port) : Byte := if i.readable then r.latch i else 0x00

/-- `VRegWrite(i, v)` on the latches (20_memory.md R48). -/
def VideoPorts.write (r : VideoPorts) (i : Port) (v : Byte) : VideoPorts :=
  if i.writable then r.setLatch i v else r

/-- `VRegWrite(i, v)`: the latch, and the event VW(i, v) for every port (20_memory.md R48). -/
def State.vregWrite (s : State) (i : Port) (v : Byte) : State :=
  { s with ports := s.ports.write i v, videoLog := { port := i, value := v } :: s.videoLog }

/-- `BusLoad(a)` (20_memory.md R42). It answers a byte and no state: a load has no side effect (R58). -/
def State.busLoad (s : State) (a : Word) : Byte :=
  if a.toNat < 0x2000 then Memory.read s.ram (ramIndex a)
  else if a.toNat < 0x4000 then s.ports.read (portOf a)
  else if a.toNat < 0x6000 then 0x00
  else s.prgLoad a

/-- `BusStore(a, v)` (20_memory.md R43). -/
def State.busStore (s : State) (a : Word) (v : Byte) : State :=
  if a.toNat < 0x2000 then { s with ram := Memory.write s.ram (ramIndex a) v }
  else if a.toNat < 0x4000 then s.vregWrite (portOf a) v
  else if a.toNat < 0x6000 then s
  else { s with mapper := s.mapper.prgStore a v }

/-- Byte `i` of the burst: the bus load from page `hh`, then the store to the OAM data port (20_memory.md R54). -/
def State.dmaByte (s : State) (hh : Byte) (i : Byte) : State :=
  s.busStore Config.oamDataPort (s.busLoad (wordOf hh i))

/-- The first `n` bytes of the burst, ascending. -/
def State.dmaBytes (s : State) (hh : Byte) : Nat → State
  | 0 => s
  | n + 1 => (State.dmaBytes s hh n).dmaByte hh (BitVec.ofNat 8 n)

/-- `OamDma(hh)`: the 256 bytes of page `hh`, each written to the OAM data port (20_memory.md R54). -/
def State.oamDma (s : State) (hh : Byte) : State := s.dmaBytes hh 256

end Sys2Proof.Machine
end

