-- ==== Sys2Proof/Machine/Flags.lean ====
section
/-! DEFINITION. The status register's bits (10_state.md R16 to R23) and every flag computation: SetZN, add, subtract,
compare, bit test, shift and rotate, and the status byte as pushed and pulled. -/

namespace Sys2Proof.Machine

/-- P.C, bit 0 (10_state.md R16). -/
def flagC (p : Byte) : Bool := p.getLsbD 0
/-- P.Z, bit 1 (R16). -/
def flagZ (p : Byte) : Bool := p.getLsbD 1
/-- P.I, bit 2 (R16). -/
def flagI (p : Byte) : Bool := p.getLsbD 2
/-- P.D, bit 3 (R16). It changes no arithmetic (R22). -/
def flagD (p : Byte) : Bool := p.getLsbD 3
/-- P.B, bit 4 (R16, R18). -/
def flagB (p : Byte) : Bool := p.getLsbD 4
/-- P.U, bit 5, always 1 (R16, R17). -/
def flagU (p : Byte) : Bool := p.getLsbD 5
/-- P.V, bit 6 (R16). -/
def flagV (p : Byte) : Bool := p.getLsbD 6
/-- P.N, bit 7 (R16). -/
def flagN (p : Byte) : Bool := p.getLsbD 7

/-- P with the bits of `mask` all set or all cleared. -/
def withBits (p mask : Byte) (v : Bool) : Byte := if v then p ||| mask else p &&& ~~~mask

/-- P with P.C replaced, mask 0x01 (R16). -/
def withC (p : Byte) (v : Bool) : Byte := withBits p 0x01 v
/-- P with P.Z replaced, mask 0x02 (R16). -/
def withZ (p : Byte) (v : Bool) : Byte := withBits p 0x02 v
/-- P with P.I replaced, mask 0x04 (R16). -/
def withI (p : Byte) (v : Bool) : Byte := withBits p 0x04 v
/-- P with P.D replaced, mask 0x08 (R16). -/
def withD (p : Byte) (v : Bool) : Byte := withBits p 0x08 v
/-- P with P.V replaced, mask 0x40 (R16). -/
def withV (p : Byte) (v : Bool) : Byte := withBits p 0x40 v
/-- P with P.N replaced, mask 0x80 (R16). -/
def withN (p : Byte) (v : Bool) : Byte := withBits p 0x80 v

/-- `SetZN(v)` on P: Z iff v is 0, N is bit 7 of v (10_state.md R23). -/
def znFlags (p v : Byte) : Byte := withN (withZ p (v == 0)) (v.getLsbD 7)

/-- ADC's `r = A + M + P.C` on unbounded integers (41_arithmetic_logic.md R141). -/
def adcSum (a m : Byte) (c : Bool) : Nat := a.toNat + m.toNat + bit1 c

/-- ADC's 8-bit result `r & 0xFF` (R141). -/
def adcResult (a m : Byte) (c : Bool) : Byte := BitVec.ofNat 8 (adcSum a m c)

/-- P after ADC: C is bit 8 of the sum, V set when both operands share a sign that the result's differs from, Z and N
of the result (R141). -/
def adcFlags (p a m : Byte) : Byte :=
  let r := adcSum a m (flagC p)
  let res := adcResult a m (flagC p)
  let v := ((a ^^^ m) &&& 0x80) == 0 && ((a ^^^ res) &&& 0x80) != 0
  znFlags (withV (withC p (decide (r > 0xFF))) v) res

/-- SBC's `r = A - M - (1 - P.C)` on unbounded integers (41_arithmetic_logic.md R142). -/
def sbcDiff (a m : Byte) (c : Bool) : Int := (a.toNat : Int) - (m.toNat : Int) - (1 - (bit1 c : Int))

/-- SBC's 8-bit result `r & 0xFF` (R142). -/
def sbcResult (a m : Byte) (c : Bool) : Byte := BitVec.ofInt 8 (sbcDiff a m c)

/-- P after SBC: C clear exactly when the subtraction borrows, V set when A differs in sign from the result and from
the operand, Z and N of the result (R142). -/
def sbcFlags (p a m : Byte) : Byte :=
  let r := sbcDiff a m (flagC p)
  let res := sbcResult a m (flagC p)
  let v := ((a ^^^ res) &&& 0x80) != 0 && ((a ^^^ m) &&& 0x80) != 0
  znFlags (withV (withC p (decide (r ≥ 0))) v) res

/-- P after `Compare(r, m)`: C is r >= m unsigned, Z and N of the low byte of r - m (41_arithmetic_logic.md R147). -/
def compareFlags (p r m : Byte) : Byte :=
  znFlags (withC p (decide (r.toNat ≥ m.toNat))) (BitVec.ofInt 8 ((r.toNat : Int) - (m.toNat : Int)))

/-- P after BIT: Z from A & M, N and V from bits 7 and 6 of M (41_arithmetic_logic.md R151). -/
def bitFlags (p a m : Byte) : Byte :=
  withV (withN (withZ p ((a &&& m) == 0)) (m.getLsbD 7)) (m.getLsbD 6)

/-- ASL's result: one place left, bit 0 is 0 (42_shift_rotate.md R166). -/
def aslByte (v : Byte) : Byte := v <<< 1
/-- LSR's result: one place right, bit 7 is 0 (R167). -/
def lsrByte (v : Byte) : Byte := v >>> 1
/-- ROL's result: one place left, the old carry enters at bit 0 (R168). -/
def rolByte (v : Byte) (c : Bool) : Byte := (v <<< 1) ||| BitVec.ofNat 8 (bit1 c)
/-- ROR's result: one place right, the old carry enters at bit 7 (R169). -/
def rorByte (v : Byte) (c : Bool) : Byte := (v >>> 1) ||| (BitVec.ofNat 8 (bit1 c) <<< 7)

/-- P after a shift or rotate: C is the bit that left, Z and N of the new byte (42_shift_rotate.md R165). -/
def shiftFlags (p : Byte) (carry : Bool) (res : Byte) : Byte := znFlags (withC p carry) res

/-- The status byte BRK and PHP push: `P | 0x10` (45_system.md R215, 43_stack_flags.md R180). -/
def pushedWithBreak (p : Byte) : Byte := p ||| 0x10

/-- The status byte an NMI pushes: `(P & 0xEF) | 0x20` (60_exceptions.md R237). -/
def pushedWithoutBreak (p : Byte) : Byte := (p &&& 0xEF) ||| 0x20

/-- P as PLP and RTI load it from the pulled byte: `(v & 0xEF) | 0x20` (43_stack_flags.md R182, 45_system.md R216,
decision D4). -/
def pulledStatus (v : Byte) : Byte := (v &&& 0xEF) ||| 0x20

end Sys2Proof.Machine
end

