-- ==== Sys2Proof/Machine/Ops.lean ====
section
/-! DEFINITION. The named operations over registers, memory and the stack that the meanings share (00_scope.md R10),
the fatal mechanism, and taking a trap and returning from one. -/

namespace Sys2Proof.Machine

/-- A <- v -/
def State.setA (s : State) (v : Byte) : State := { s with a := v }
/-- X <- v -/
def State.setX (s : State) (v : Byte) : State := { s with x := v }
/-- Y <- v -/
def State.setY (s : State) (v : Byte) : State := { s with y := v }
/-- S <- v -/
def State.setSp (s : State) (v : Byte) : State := { s with sp := v }
/-- P <- v -/
def State.setP (s : State) (v : Byte) : State := { s with p := v }
/-- PC <- w -/
def State.setPc (s : State) (w : Word) : State := { s with pc := w }
/-- The machine status -/
def State.setStatus (s : State) (v : Status) : State := { s with status := v }

/-- PC moved past `n` instruction bytes, modulo 2^16 (10_state.md R14, 30_encoding.md R91, decision D3). -/
def State.advance (s : State) (n : Nat) : State := s.setPc (s.pc + BitVec.ofNat 16 n)

/-- `SetZN(v)` (10_state.md R23). -/
def State.setZN (s : State) (v : Byte) : State := s.setP (znFlags s.p v)

/-- `Compare(r, m)` (41_arithmetic_logic.md R147): flags only. -/
def State.compare (s : State) (r m : Byte) : State := s.setP (compareFlags s.p r m)

/-- `MemRead(a, 1)`: the CPU's byte load (20_memory.md R52). -/
def State.memRead (s : State) (a : Word) : Byte := s.busLoad a

/-- `MemRead(a, 2)`: little-endian, the second address modulo 2^16 (20_memory.md R55). -/
def State.memReadWord (s : State) (a : Word) : Word := wordOf (s.memRead (a + 1)) (s.memRead a)

/-- `MemWrite(a, 1, v)`: the DMA trigger at exactly 0x4014, else the Bus (20_memory.md R53). -/
def State.memWrite (s : State) (a : Word) (v : Byte) : State :=
  if a = Config.dmaTrigger then s.oamDma v else s.busStore a v

/-- `MemWrite(a, 2, w)`: low byte, then high byte at the next address; no instruction uses it (20_memory.md R56). -/
def State.memWriteWord (s : State) (a w : Word) : State :=
  (s.memWrite a (loByte w)).memWrite (a + 1) (hiByte w)

/-- `ZpWord(b)`: both pointer bytes in page 0, the second address modulo 256 (20_memory.md R57). -/
def State.zpWord (s : State) (b : Byte) : Word := wordOf (s.memRead (zext16 (b + 1))) (s.memRead (zext16 b))

/-- `Fetch8()` (30_encoding.md R91). -/
def State.fetch8 (s : State) : Byte × State := (s.memRead s.pc, s.advance 1)

/-- `Fetch16()`: low byte first (30_encoding.md R91). -/
def State.fetch16 (s : State) : Word × State :=
  let lo := s.fetch8
  let hi := lo.2.fetch8
  (wordOf hi.1 lo.1, hi.2)

/-- The address the stack pointer designates, `0x0100 + S` (10_state.md R15). -/
def stackAddress (sp : Byte) : Word := 0x0100 + zext16 sp

/-- `Push8(v)`: store, then decrement modulo 256 (43_stack_flags.md R175). -/
def State.push8 (s : State) (v : Byte) : State := (s.memWrite (stackAddress s.sp) v).setSp (s.sp - 1)

/-- `Pop8()`: increment modulo 256, then load (43_stack_flags.md R176). -/
def State.pop8 (s : State) : Byte × State :=
  let s := s.setSp (s.sp + 1)
  (s.memRead (stackAddress s.sp), s)

/-- `Push16(w)`: high byte first (43_stack_flags.md R177). -/
def State.push16 (s : State) (w : Word) : State := (s.push8 (hiByte w)).push8 (loByte w)

/-- `Pop16()`: low byte first (43_stack_flags.md R178). -/
def State.pop16 (s : State) : Word × State :=
  let lo := s.pop8
  let hi := lo.2.pop8
  (wordOf hi.1 lo.1, hi.2)

/-- The register dump of a fatal condition (60_exceptions.md R230). -/
def State.registerDump (s : State) : RegisterDump where
  a := s.a
  x := s.x
  y := s.y
  sp := s.sp
  p := s.p
  pc := s.pc

/-- `raise Fatal(kind, info)`: the status becomes Halted and nothing else changes (60_exceptions.md R230). -/
def State.raiseFatal (s : State) (why : Fatal) : State := s.setStatus (.halted why)

/-- TAKING A TRAP, shared by BRK and the NMI: push the return address, high byte first, push the status byte, set
P.I, load PC from the vector (45_system.md R215, 60_exceptions.md R237, R239). That BRK sets P.I is the spec's
decision D5. -/
def State.takeTrap (s : State) (ret : Word) (status : Byte) (vector : Word) : State :=
  let s := (s.push16 ret).push8 status
  let s := s.setP (withI s.p true)
  s.setPc (s.memReadWord vector)

/-- RETURNING FROM A TRAP: pull P through the mask, then pull PC, with no increment (45_system.md R216,
60_exceptions.md R241). -/
def State.returnFromTrap (s : State) : State :=
  let status := s.pop8
  let s := status.2.setP (pulledStatus status.1)
  let ret := s.pop16
  ret.2.setPc ret.1

/-- `Branch(cond)` with PC at the next instruction: the displacement is added when the condition holds
(44_control_flow.md R199, 30_encoding.md R105). -/
def State.branch (s : State) (cond : Bool) (d : Byte) : State :=
  if cond then s.setPc (s.pc + sext16 d) else s

/-- JMP indirect's target: with the page bug the high byte comes from the pointer's own page
(44_control_flow.md R196, decision D6). -/
def State.indirectTarget (s : State) (ptr : Word) : Word :=
  if s.params.jmpIndirectPageBug then
    wordOf (s.memRead ((ptr &&& 0xFF00#16) ||| ((ptr + 1) &&& 0x00FF#16))) (s.memRead ptr)
  else s.memReadWord ptr

end Sys2Proof.Machine
end

