-- ==== Sys2Proof/Machine/Operands.lean ====
section
/-! DEFINITION. The data addressing modes: resolving one, and loading and storing through what it resolved to
(30_encoding.md R92 to R106). -/

namespace Sys2Proof.Machine

/-- What a mode resolves to (the column "resolves to" of 30_encoding.md R92). -/
inductive Target where
  /-- the register A -/
  | acc
  /-- the operand byte itself -/
  | imm (b : Byte)
  /-- a byte of memory at the effective address -/
  | mem (ea : Word)
deriving DecidableEq, Repr

/-- Resolve a mode once (30_encoding.md R94 to R103, R106). -/
def State.resolve (s : State) : Operand → Target
  | .acc => .acc
  | .imm b => .imm b
  | .zp b => .mem (zext16 b)
  | .zpx b => .mem (zext16 (b + s.x))
  | .zpy b => .mem (zext16 (b + s.y))
  | .abs w => .mem w
  | .abx w => .mem (w + zext16 s.x)
  | .aby w => .mem (w + zext16 s.y)
  | .izx b => .mem (s.zpWord (b + s.x))
  | .izy b => .mem (s.zpWord b + zext16 s.y)

/-- `Load` through a resolved mode (30_encoding.md R106). -/
def State.load (s : State) : Target → Byte
  | .acc => s.a
  | .imm b => b
  | .mem ea => s.memRead ea

/-- `Store(v)` through a resolved mode (30_encoding.md R106); through Immediate it is fatal (R95,
60_exceptions.md R232). -/
def State.store (s : State) (t : Target) (v : Byte) : State :=
  match t with
  | .acc => s.setA v
  | .imm _ => s.raiseFatal (.immediateStore s.registerDump)
  | .mem ea => s.memWrite ea v

/-- PC past an instruction with this operand: the opcode byte and the operand bytes (30_encoding.md R90). -/
def State.advancePast (s : State) (m : Operand) : State := s.advance (1 + m.operandBytes)

/-- The data operand's byte, the mode resolved and loaded. -/
def State.operand (s : State) (m : Operand) : Byte := s.load (s.resolve m)

end Sys2Proof.Machine
end

