-- ==== Sys2Proof/Machine/Arithmetic.lean ====
section
/-! DEFINITION. Arithmetic, logic, compare, increment and decrement (41_arithmetic_logic.md R140 to R157). -/

namespace Sys2Proof.Machine

/-- ADC (R141); P.D plays no part (10_state.md R22). -/
def execAdc (m : Operand) (s : State) : Result :=
  let s := s.advancePast m
  let v := s.operand m
  .next ((s.setA (adcResult s.a v (flagC s.p))).setP (adcFlags s.p s.a v))

/-- SBC (R142); P.D plays no part (10_state.md R22). -/
def execSbc (m : Operand) (s : State) : Result :=
  let s := s.advancePast m
  let v := s.operand m
  .next ((s.setA (sbcResult s.a v (flagC s.p))).setP (sbcFlags s.p s.a v))

/-- AND: `A <- SetZN(A & Load(mode))` (R144). -/
def execAnd (m : Operand) (s : State) : Result :=
  let s := s.advancePast m
  let r := s.a &&& s.operand m
  .next ((s.setA r).setZN r)

/-- ORA: `A <- SetZN(A | Load(mode))` (R145). -/
def execOra (m : Operand) (s : State) : Result :=
  let s := s.advancePast m
  let r := s.a ||| s.operand m
  .next ((s.setA r).setZN r)

/-- EOR: `A <- SetZN(A ^ Load(mode))` (R146). -/
def execEor (m : Operand) (s : State) : Result :=
  let s := s.advancePast m
  let r := s.a ^^^ s.operand m
  .next ((s.setA r).setZN r)

/-- CMP: `Compare(A, Load(mode))` (R148, R147). -/
def execCmp (m : Operand) (s : State) : Result :=
  let s := s.advancePast m
  .next (s.compare s.a (s.operand m))

/-- CPX: `Compare(X, Load(mode))` (R149, R147). -/
def execCpx (m : Operand) (s : State) : Result :=
  let s := s.advancePast m
  .next (s.compare s.x (s.operand m))

/-- CPY: `Compare(Y, Load(mode))` (R150, R147). -/
def execCpy (m : Operand) (s : State) : Result :=
  let s := s.advancePast m
  .next (s.compare s.y (s.operand m))

/-- BIT: Z from A & M, N and V from bits 7 and 6 of M, no SetZN (R151). -/
def execBit (m : Operand) (s : State) : Result :=
  let s := s.advancePast m
  .next (s.setP (bitFlags s.p s.a (s.operand m)))

/-- INC: `Store(mode, SetZN((v + 1) & 0xFF))`, one read and one write of one resolved mode (R152). -/
def execInc (m : Operand) (s : State) : Result :=
  let s := s.advancePast m
  let t := s.resolve m
  let r := s.load t + 1
  .next ((s.setZN r).store t r)

/-- DEC: `Store(mode, SetZN((v - 1) & 0xFF))`, one read and one write of one resolved mode (R153). -/
def execDec (m : Operand) (s : State) : Result :=
  let s := s.advancePast m
  let t := s.resolve m
  let r := s.load t - 1
  .next ((s.setZN r).store t r)

/-- INX: `X <- SetZN((X + 1) & 0xFF)` (R154). -/
def execInx (s : State) : Result :=
  let s := s.advance 1
  let r := s.x + 1
  .next ((s.setX r).setZN r)

/-- INY: `Y <- SetZN((Y + 1) & 0xFF)` (R155). -/
def execIny (s : State) : Result :=
  let s := s.advance 1
  let r := s.y + 1
  .next ((s.setY r).setZN r)

/-- DEX: `X <- SetZN((X - 1) & 0xFF)` (R156). -/
def execDex (s : State) : Result :=
  let s := s.advance 1
  let r := s.x - 1
  .next ((s.setX r).setZN r)

/-- DEY: `Y <- SetZN((Y - 1) & 0xFF)` (R157). -/
def execDey (s : State) : Result :=
  let s := s.advance 1
  let r := s.y - 1
  .next ((s.setY r).setZN r)

end Sys2Proof.Machine
end

