-- ==== Sys2Proof/Machine/Control.lean ====
section
/-! DEFINITION. Jumps, subroutines and conditional branches (44_control_flow.md R195 to R207). -/

namespace Sys2Proof.Machine

/-- JMP absolute: `PC <- Fetch16()`; the operand word is the target (R195). -/
def execJmpAbs (target : Word) (s : State) : Result :=
  .next (s.setPc target)

/-- JMP indirect: the target is the word at the pointer (R196). -/
def execJmpInd (ptr : Word) (s : State) : Result :=
  .next (s.setPc (s.indirectTarget ptr))

/-- JSR: push the address of its own last byte, high byte first, then go to the target (R197). -/
def execJsr (target : Word) (s : State) : Result :=
  let s := s.advance 3
  .next ((s.push16 (s.pc - 1)).setPc target)

/-- RTS: pull a word and go to the address after it (R198). -/
def execRts (s : State) : Result :=
  let r := (s.advance 1).pop16
  .next (r.2.setPc (r.1 + 1))

/-- BPL: `Branch(P.N == 0)` (R200). -/
def execBpl (d : Byte) (s : State) : Result :=
  let s := s.advance 2
  .next (s.branch (!flagN s.p) d)

/-- BMI: `Branch(P.N == 1)` (R201). -/
def execBmi (d : Byte) (s : State) : Result :=
  let s := s.advance 2
  .next (s.branch (flagN s.p) d)

/-- BVC: `Branch(P.V == 0)` (R202). -/
def execBvc (d : Byte) (s : State) : Result :=
  let s := s.advance 2
  .next (s.branch (!flagV s.p) d)

/-- BVS: `Branch(P.V == 1)` (R203). -/
def execBvs (d : Byte) (s : State) : Result :=
  let s := s.advance 2
  .next (s.branch (flagV s.p) d)

/-- BCC: `Branch(P.C == 0)` (R204). -/
def execBcc (d : Byte) (s : State) : Result :=
  let s := s.advance 2
  .next (s.branch (!flagC s.p) d)

/-- BCS: `Branch(P.C == 1)` (R205). -/
def execBcs (d : Byte) (s : State) : Result :=
  let s := s.advance 2
  .next (s.branch (flagC s.p) d)

/-- BNE: `Branch(P.Z == 0)` (R206). -/
def execBne (d : Byte) (s : State) : Result :=
  let s := s.advance 2
  .next (s.branch (!flagZ s.p) d)

/-- BEQ: `Branch(P.Z == 1)` (R207). -/
def execBeq (d : Byte) (s : State) : Result :=
  let s := s.advance 2
  .next (s.branch (flagZ s.p) d)

end Sys2Proof.Machine
end

