-- ==== Sys2Proof/Machine/LoadStore.lean ====
section
/-! DEFINITION. Loads, stores and register transfers (40_load_store_transfer.md R120 to R132). -/

namespace Sys2Proof.Machine

/-- LDA: `A <- SetZN(Load(mode))` (R121). -/
def execLda (m : Operand) (s : State) : Result :=
  let s := s.advancePast m
  let v := s.operand m
  .next ((s.setA v).setZN v)

/-- LDX: `X <- SetZN(Load(mode))` (R122). -/
def execLdx (m : Operand) (s : State) : Result :=
  let s := s.advancePast m
  let v := s.operand m
  .next ((s.setX v).setZN v)

/-- LDY: `Y <- SetZN(Load(mode))` (R123). -/
def execLdy (m : Operand) (s : State) : Result :=
  let s := s.advancePast m
  let v := s.operand m
  .next ((s.setY v).setZN v)

/-- STA: `Store(mode, A)`, no data read and no flag (R124). -/
def execSta (m : Operand) (s : State) : Result :=
  let s := s.advancePast m
  .next (s.store (s.resolve m) s.a)

/-- STX: `Store(mode, X)`, no data read and no flag (R125). -/
def execStx (m : Operand) (s : State) : Result :=
  let s := s.advancePast m
  .next (s.store (s.resolve m) s.x)

/-- STY: `Store(mode, Y)`, no data read and no flag (R126). -/
def execSty (m : Operand) (s : State) : Result :=
  let s := s.advancePast m
  .next (s.store (s.resolve m) s.y)

/-- TAX: `X <- SetZN(A)` (R127). -/
def execTax (s : State) : Result :=
  let s := s.advance 1
  .next ((s.setX s.a).setZN s.a)

/-- TAY: `Y <- SetZN(A)` (R128). -/
def execTay (s : State) : Result :=
  let s := s.advance 1
  .next ((s.setY s.a).setZN s.a)

/-- TXA: `A <- SetZN(X)` (R129). -/
def execTxa (s : State) : Result :=
  let s := s.advance 1
  .next ((s.setA s.x).setZN s.x)

/-- TYA: `A <- SetZN(Y)` (R130). -/
def execTya (s : State) : Result :=
  let s := s.advance 1
  .next ((s.setA s.y).setZN s.y)

/-- TSX: `X <- SetZN(S)` (R131). -/
def execTsx (s : State) : Result :=
  let s := s.advance 1
  .next ((s.setX s.sp).setZN s.sp)

/-- TXS: `S <- X`, the one transfer that writes no flag (R132). -/
def execTxs (s : State) : Result :=
  let s := s.advance 1
  .next (s.setSp s.x)

end Sys2Proof.Machine
end

