-- ==== Sys2Proof/Machine/Shift.lean ====
section
/-! DEFINITION. Shifts and rotates (42_shift_rotate.md R165 to R169). -/

namespace Sys2Proof.Machine

/-- ASL: left, 0 enters; C is old bit 7 (R166). -/
def execAsl (m : Operand) (s : State) : Result :=
  let s := s.advancePast m
  let t := s.resolve m
  let v := s.load t
  let r := aslByte v
  .next ((s.setP (shiftFlags s.p (v.getLsbD 7) r)).store t r)

/-- LSR: right, 0 enters; C is old bit 0 (R167). -/
def execLsr (m : Operand) (s : State) : Result :=
  let s := s.advancePast m
  let t := s.resolve m
  let v := s.load t
  let r := lsrByte v
  .next ((s.setP (shiftFlags s.p (v.getLsbD 0) r)).store t r)

/-- ROL: left, the old carry enters; C is old bit 7 (R168). -/
def execRol (m : Operand) (s : State) : Result :=
  let s := s.advancePast m
  let t := s.resolve m
  let v := s.load t
  let r := rolByte v (flagC s.p)
  .next ((s.setP (shiftFlags s.p (v.getLsbD 7) r)).store t r)

/-- ROR: right, the old carry enters; C is old bit 0 (R169). -/
def execRor (m : Operand) (s : State) : Result :=
  let s := s.advancePast m
  let t := s.resolve m
  let v := s.load t
  let r := rorByte v (flagC s.p)
  .next ((s.setP (shiftFlags s.p (v.getLsbD 0) r)).store t r)

end Sys2Proof.Machine
end

