-- ==== Sys2Proof/Machine/StackFlags.lean ====
section
/-! DEFINITION. Stack and flag instructions (43_stack_flags.md R179 to R189). -/

namespace Sys2Proof.Machine

/-- PHA: `Push8(A)` (R179). -/
def execPha (s : State) : Result :=
  let s := s.advance 1
  .next (s.push8 s.a)

/-- PHP: `Push8(P | 0x10)`; P itself is unchanged (R180). -/
def execPhp (s : State) : Result :=
  let s := s.advance 1
  .next (s.push8 (pushedWithBreak s.p))

/-- PLA: `A <- SetZN(Pop8())` (R181). -/
def execPla (s : State) : Result :=
  let r := (s.advance 1).pop8
  .next ((r.2.setA r.1).setZN r.1)

/-- PLP: P from the pulled byte, bit 4 cleared, bit 5 set (R182). -/
def execPlp (s : State) : Result :=
  let r := (s.advance 1).pop8
  .next (r.2.setP (pulledStatus r.1))

/-- CLC: `P.C <- 0` (R183). -/
def execClc (s : State) : Result :=
  let s := s.advance 1
  .next (s.setP (withC s.p false))

/-- SEC: `P.C <- 1` (R184). -/
def execSec (s : State) : Result :=
  let s := s.advance 1
  .next (s.setP (withC s.p true))

/-- CLI: `P.I <- 0` (R185). -/
def execCli (s : State) : Result :=
  let s := s.advance 1
  .next (s.setP (withI s.p false))

/-- SEI: `P.I <- 1` (R186). -/
def execSei (s : State) : Result :=
  let s := s.advance 1
  .next (s.setP (withI s.p true))

/-- CLD: `P.D <- 0` (R187). -/
def execCld (s : State) : Result :=
  let s := s.advance 1
  .next (s.setP (withD s.p false))

/-- SED: `P.D <- 1` (R188). -/
def execSed (s : State) : Result :=
  let s := s.advance 1
  .next (s.setP (withD s.p true))

/-- CLV: `P.V <- 0` (R189). -/
def execClv (s : State) : Result :=
  let s := s.advance 1
  .next (s.setP (withV s.p false))

end Sys2Proof.Machine
end

