-- ==== Sys2Proof/Machine/System.lean ====
section
/-! DEFINITION. System instructions: BRK, RTI, the no-ops, and the unimplemented opcodes (45_system.md, 60_exceptions.md R231). -/

namespace Sys2Proof.Machine

/-- BRK: takes the software trap; the saved address skips the padding byte, which is never read (R215). -/
def execBrk (s : State) : Result :=
  let s := s.advance 1
  .next (s.takeTrap (s.pc + 1) (pushedWithBreak s.p) Config.brkVector)

/-- RTI: returns from a trap (R216). -/
def execRti (s : State) : Result :=
  .next (s.advance 1).returnFromTrap

/-- NOP: only the opcode fetch (R217). -/
def execNop (s : State) : Result :=
  .next (s.advance 1)

/-- An unofficial no-op: its operand bytes are consumed, nothing else happens (R218). -/
def execUnofficialNop (op : Byte) (operand : NopOperand) (s : State) : Result :=
  .next (s.advance (Instr.unofficialNop op operand).length)

/-- An unimplemented opcode: PC is past the opcode byte and the machine is Halted with the opcode and the register
dump (60_exceptions.md R230, R231; log 9). -/
def execIllegal (op : Byte) (s : State) : Result :=
  let s := s.advance 1
  .next (s.raiseFatal (.unimplementedOpcode op s.registerDump))

end Sys2Proof.Machine
end

