-- ==== Sys2Proof/Machine/Driver.lean ====
section
/-! DEFINITION. What stands around an instruction: construction, the reset operation and the diagnostic load of the
host (70_reset_and_hazards.md R260 to R263, 20_memory.md R86), the moves of the outside world between two steps
(20_memory.md R80, 60_exceptions.md R237), fetching an instruction, the cartridge file format (20_memory.md R60), and
placing instruction bytes where a fetch finds them. -/

namespace Sys2Proof.Machine

/-! ### Construction -/

/-- Everything a construction is given (00_scope.md R7). -/
structure Construction where
  image : Image
  /-- `MAPPER_KIND = TEST` was asked for explicitly (decision D8 (a)) -/
  testVariant : Bool
  initA : Byte
  initX : Byte
  initY : Byte
  initS : Byte
  initP : Byte
  initPc : Word
  ramInit : Memory
  vrInit : VideoPorts
  chrRamInit : Memory
  params : Params
  /-- the model's own: what will happen outside CORE (log 7) -/
  outside : List Boundary
deriving DecidableEq, Repr

/-- Why no machine comes into being. -/
inductive ConstructError where
  /-- `select_mapper` met a mapper number that is neither 0 nor 1 (60_exceptions.md R233 (a)). -/
  | fatal (why : Fatal)
  /-- The image does not fit the variant (60_exceptions.md R233 (b), decision D8). -/
  | imageMisfit (kind : MapperKind) (prgUnits : Byte)
  /-- A parameter is outside the type 00_scope.md R7 gives it. -/
  | badParameter
deriving DecidableEq, Repr

/-- The parameters have the types of 00_scope.md R7: INIT_P has bit 5 set, each byte array is in canonical form and
holds no byte beyond its length, the no-op set is one R112 allows. -/
def Construction.admissible (c : Construction) : Bool :=
  flagU c.initP &&
  (Memory.wf c.ramInit && Memory.within 2048 c.ramInit) &&
  (Memory.wf c.chrRamInit && Memory.within 8192 c.chrRamInit) &&
  (Memory.wf c.image.prg && Memory.within c.image.prgLength c.image.prg) &&
  (Memory.wf c.image.chr && Memory.within c.image.chrLength c.image.chr) &&
  c.params.nopSet.admissible

/-- The variant to build: the test variant on request, else what `select_mapper` answers (20_memory.md R62). -/
def Construction.kind (c : Construction) : Except Fatal MapperKind :=
  if c.testVariant then .ok .test else selectMapper c.image

/-- Whether the image has a size the variant has an answer for: 1 or 2 PRG units under NROM and the test variant, at
least 1 under the MMC1-class variant (20_memory.md R63, R73, R75). -/
def Image.fits (img : Image) : MapperKind → Bool
  | .nrom | .test => img.prgUnits == 1 || img.prgUnits == 2
  | .mmc1 => img.prgUnits != 0

/-- The MMC1-class variant's registers at construction (10_state.md R35, decision D12). -/
def Mmc1.constructed (chrRam : Memory) : Mmc1 where
  shift := 0
  count := 0
  control := 0x0C
  chr0 := 0
  chr1 := 0
  prgb := 0
  chrRam := chrRam

/-- The Mapper at construction (10_state.md R35). -/
def Mapper.constructed (chrRam : Memory) : MapperKind → Mapper
  | .nrom => .nrom
  | .mmc1 => .mmc1 (Mmc1.constructed chrRam)
  | .test => .test []

/-- Construction (70_reset_and_hazards.md R260). -/
def construct (c : Construction) : Except ConstructError State :=
  if !c.admissible then .error .badParameter
  else
    match c.kind with
    | .error why => .error (.fatal why)
    | .ok kind =>
      if !c.image.fits kind then .error (.imageMisfit kind c.image.prgUnits)
      else
        .ok {
          a := c.initA
          x := c.initX
          y := c.initY
          sp := c.initS
          p := c.initP
          pc := c.initPc
          ram := c.ramInit
          ports := c.vrInit
          videoLog := []
          image := c.image
          mapper := Mapper.constructed c.chrRamInit kind
          status := .running
          nmiPending := false
          params := c.params
          outside := c.outside }

/-- The construction of `State.reset`: the recommended values of decisions D1 and D2, the blank cartridge and the
default parameters (log 1 to 7). -/
def Construction.default : Construction where
  image := Image.blank
  testVariant := false
  initA := 0x00
  initX := 0x00
  initY := 0x00
  initS := 0xFD
  initP := 0x24
  initPc := 0x0000
  ramInit := []
  vrInit := VideoPorts.cleared
  chrRamInit := []
  params := Config.defaultParams
  outside := []

/-! ### Reset and the diagnostic load -/

/-- The `reset` operation: PC from 0xFFFC and nothing else (70_reset_and_hazards.md R261, R262). In a Halted machine
no state changes (10_state.md R33, log 13). -/
def State.performReset (s : State) : State :=
  match s.status with
  | .running => s.setPc (s.memReadWord Config.resetVector)
  | .halted _ => s

/-- The host's diagnostic load between steps (20_memory.md R86). -/
def State.diagnosticLoad (s : State) (a : Word) : Byte := s.busLoad a

/-! ### Between two steps -/

/-- The latches after the external video agent's move: ports 2, 4 and 7 replaced (20_memory.md R80). -/
def VideoPorts.agentMove (r : VideoPorts) (m : AgentMove) : VideoPorts :=
  { r with status := m.status, oamData := m.oamData, data := m.data }

/-- What one boundary entry does: the agent's move counts when VIDEO_AGENT is open (20_memory.md R80), the NMI request
when NMI_ENABLED is true (60_exceptions.md R237). -/
def State.outsideMove (s : State) (b : Boundary) : State :=
  let ports :=
    match s.params.videoAgent, b.agent with
    | .opened, some m => s.ports.agentMove m
    | .opened, none => s.ports
    | .closed, _ => s.ports
  { s with ports := ports, nmiPending := s.nmiPending || (s.params.nmiEnabled && b.nmi) }

/-- The boundary before a step: the next entry of `outside` happens; with none left, nothing does (log 7). -/
def State.boundary (s : State) : State :=
  match s.outside with
  | [] => s
  | b :: rest => { s.outsideMove b with outside := rest }

/-- Whether the step takes a pending NMI instead of an instruction (60_exceptions.md R237, R238). -/
def State.nmiDue (s : State) : Bool := s.params.nmiEnabled && s.nmiPending

/-- Taking the NMI: the latch is cleared, then the trap with the Break bit clear in the pushed byte
(60_exceptions.md R237, decision D16). -/
def State.takeNmi (s : State) : State :=
  let s := { s with nmiPending := false }
  s.takeTrap s.pc (pushedWithoutBreak s.p) Config.nmiVector

/-! ### Fetching -/

/-- The instruction at PC: the opcode byte by Fetch8, the two bytes after it by Fetch16 (30_encoding.md R90, R91).
Bytes beyond the instruction's length are read and ignored, which nothing can observe (20_memory.md R58, log 10). -/
def State.fetchInstr (s : State) : Instr :=
  let op := s.fetch8
  let w := op.2.fetch16
  decodeBytes s.params.nopSet op.1 (loByte w.1) (hiByte w.1)

/-! ### Placing instruction bytes -/

/-- The state in which a load of bus address `a` gives `v`, where a byte of RAM, SCRATCH or PRG stands there. -/
def State.placeByte (s : State) (a : Word) (v : Byte) : Option State :=
  if a.toNat < 0x2000 then some { s with ram := Memory.write s.ram (ramIndex a) v }
  else if a.toNat < 0x6000 then none
  else
    let inPrg (off : Option Nat) : Option State :=
      off.map fun k => { s with image := { s.image with prg := Memory.write s.image.prg k v } }
    match s.mapper with
    | .nrom => inPrg (s.image.nromOffset a)
    | .mmc1 m => if a.toNat < 0x8000 then none else inPrg (s.image.mmc1Offset m a)
    | .test scratch =>
      if a.toNat < 0x8000 then some { s with mapper := .test (Memory.write scratch (scratchIndex a) v) }
      else inPrg (s.image.nromOffset a)

/-- Three bytes placed at `a`, `a + 1`, `a + 2` modulo 2^16. -/
def State.placeThree (s : State) (a : Word) (b0 b1 b2 : Byte) : Option State :=
  match s.placeByte a b0 with
  | none => none
  | some s =>
    match s.placeByte (a + 1) b1 with
    | none => none
    | some s => s.placeByte (a + 2) b2

/-- An address from which three bytes are always RAM; code is placed here when PC stands where no byte can be. -/
def codeHome : Word := 0x0200

/-- Three bytes placed where the next fetch finds them: at PC, or, when PC stands in a port, in open bus or where the
Mapper has no byte, in RAM with PC moved there (log 23). -/
def State.placeCode (s : State) (b0 b1 b2 : Byte) : State :=
  match s.placeThree s.pc b0 b1 b2 with
  | some t => t
  | none =>
    let ram := Memory.writeList s.ram (ramIndex codeHome) [b0, b1, b2]
    { s with ram := ram, pc := codeHome }

/-- Running, with no NMI due at the next boundary: what a step needs to fetch an instruction. -/
def State.readyToFetch (s : State) : State :=
  let outside :=
    match s.outside with
    | [] => []
    | b :: rest => { b with nmi := false } :: rest
  { s with status := .running, nmiPending := false, outside := outside }

/-! ### The cartridge file -/

/-- Why a cartridge file gives no image (20_memory.md R60; the names are the model's, log 21). -/
inductive LoadError where
  | badMagic
  | truncated
deriving DecidableEq, Repr

/-- The magic of a cartridge file (20_memory.md R60). -/
def cartridgeMagic : List Byte := [0x4E, 0x45, 0x53, 0x1A]

/-- The image of a cartridge file: the 16-byte header, the PRG bytes, then the CHR bytes (20_memory.md R60). The
loader is outside CORE; nothing of the machine calls this. -/
def parseCartridge (file : List Byte) : Except LoadError Image :=
  if file.take 4 ≠ cartridgeMagic then .error .badMagic
  else
    match file.drop 4 with
    | prgUnits :: chrUnits :: flags6 :: flags7 :: prgRam :: _f9 :: _f10 :: _r0 :: _r1 :: _r2 :: _r3 :: _r4 :: body =>
      let prgSize := prgUnits.toNat * 16384
      let chrSize := chrUnits.toNat * 8192
      if body.length < prgSize + chrSize then .error .truncated
      else
        .ok {
          prgUnits := prgUnits
          chrUnits := chrUnits
          flags6 := flags6
          flags7 := flags7
          prgRamSize := prgRam
          prg := Memory.writeList [] 0 (body.take prgSize)
          chr := Memory.writeList [] 0 ((body.drop prgSize).take chrSize) }
    | _ => .error .truncated

end Sys2Proof.Machine
end

