-- ==== Sys2Proof/Machine/Step.lean ====
section
/-! DEFINITION. One step of the machine. -/

namespace Sys2Proof.Machine

/-- `step` (30_encoding.md R90). A Halted machine takes none (10_state.md R33). Otherwise the boundary before the step
happens (20_memory.md R80), a pending NMI is taken if that input exists (60_exceptions.md R237, R238), and else the
instruction at PC is fetched, decoded and executed. -/
def step (s : State) : Host.Outcome State Fault Refusal :=
  match s.status with
  | .halted why => .fault (.halted why)
  | .running =>
    let t := s.boundary
    if t.nmiDue then .next t.takeNmi else exec t.fetchInstr t

/-- `s` made to fetch the instruction whose bits are `w` as its very next step: the three bytes stand where `step`
fetches, every bit above `nbits` zero (log 23). -/
def State.withFetchWord (s : State) (nbits w : Nat) : State :=
  let v := w % 2 ^ nbits
  s.readyToFetch.placeCode (BitVec.ofNat 8 v) (BitVec.ofNat 8 (v / 2 ^ 8)) (BitVec.ofNat 8 (v / 2 ^ 16))

end Sys2Proof.Machine
end

