-- ==== Sys2Proof/Safety.lean ====
section
/-! DEFINITION. What a safe run is, the invariant of the machine, and the terms the statements use: where an
instruction stores, which loads a store can change, and which instructions write which register and flag. -/

namespace Sys2Proof.Machine

/-! ### Safe runs and the invariant -/

/-- The machine is running: no fatal condition has been met (60_exceptions.md R230: Halted "is never final, it refutes
any claim that the program runs to its end"). -/
def State.isRunning (s : State) : Bool := s.status == .running

/-- The Mapper's own state is legal: stores in canonical form and within their size, MM.count 0 to 4
(10_state.md R28, R29). -/
def Mapper.legal : Mapper → Bool
  | .nrom => true
  | .mmc1 m => decide (m.count.toNat ≤ 4) && Memory.wf m.chrRam && Memory.within 8192 m.chrRam
  | .test scratch => Memory.wf scratch && Memory.within 8192 scratch

/-- The image has the shape of 10_state.md R26 and fits the variant (60_exceptions.md R233 (b)). -/
def State.imageLegal (s : State) : Bool :=
  s.image.fits s.mapper.identify &&
  (Memory.wf s.image.prg && Memory.within s.image.prgLength s.image.prg) &&
  (Memory.wf s.image.chr && Memory.within s.image.chrLength s.image.chr)

/-- The invariant of the machine: bit 5 of P is 1 (10_state.md R17), RAM is canonical and within 2,048 bytes (R25), the
Mapper's state and the image are legal. Every constructed machine has it and every step keeps it. -/
def State.inv (s : State) : Bool :=
  flagU s.p && (Memory.wf s.ram && Memory.within 2048 s.ram) && s.mapper.legal && s.imageLegal

/-! ### Stores -/

/-- The address a data operand stores to, if it stores to memory. -/
def State.storeAddress (s : State) (m : Operand) : List Word :=
  match s.resolve m with
  | .mem ea => [ea]
  | .acc | .imm _ => []

/-- The addresses an instruction stores to, in order: the operand's, computed as the meaning computes it, or the stack
slots it pushes to. -/
def State.storesOf (s : State) : Instr → List Word
  | .sta m | .stx m | .sty m | .inc m | .dec m | .asl m | .lsr m | .rol m | .ror m =>
    (s.advancePast m).storeAddress m
  | .pha | .php => [stackAddress s.sp]
  | .jsr _ => [stackAddress s.sp, stackAddress (s.sp - 1)]
  | .brk => [stackAddress s.sp, stackAddress (s.sp - 1), stackAddress (s.sp - 1 - 1)]
  | .lda _ | .ldx _ | .ldy _ | .tax | .tay | .txa | .tya | .tsx | .txs => []
  | .adc _ | .sbc _ | .and _ | .ora _ | .eor _ | .cmp _ | .cpx _ | .cpy _ | .bit _ => []
  | .inx | .iny | .dex | .dey => []
  | .pla | .plp | .clc | .sec | .cli | .sei | .cld | .sed | .clv => []
  | .jmpAbs _ | .jmpInd _ | .rts => []
  | .bpl _ | .bmi _ | .bvc _ | .bvs _ | .bcc _ | .bcs _ | .bne _ | .beq _ => []
  | .rti | .nop | .unofficialNop _ _ | .illegal _ => []

/-- Whether a CPU store to `ea` can change what a load of `b` gives: the same RAM byte or the same port through a
mirror (20_memory.md R44, R46); the OAM data port for the DMA trigger (R54); nothing for the rest of open bus (R49) and
under NROM (R64); the same SCRATCH byte (R75); under the MMC1-class variant, where a store to 0x8000 or above drives
the bank registers, any address from 0x8000 up (R68, R70). -/
def State.storeReaches (s : State) (ea b : Word) : Bool :=
  if ea = Config.dmaTrigger then
    decide (0x2000 ≤ b.toNat) && decide (b.toNat < 0x4000) && decide (b.toNat % 8 = 4)
  else if ea.toNat < 0x2000 then decide (b.toNat < 0x2000) && decide (b.toNat % 0x800 = ea.toNat % 0x800)
  else if ea.toNat < 0x4000 then
    decide (0x2000 ≤ b.toNat) && decide (b.toNat < 0x4000) && decide (b.toNat % 8 = ea.toNat % 8)
  else if ea.toNat < 0x6000 then false
  else
    match s.mapper with
    | .nrom => false
    | .mmc1 _ => decide (0x8000 ≤ ea.toNat) && decide (0x8000 ≤ b.toNat)
    | .test _ => decide (ea.toNat < 0x8000) && decide (b = ea)

/-! ### The words of the statements -/

/-- `q` is `p` but for the bits listed. -/
def bitsKept (listed : List Nat) (p q : Byte) : Prop := ∀ k, k ∉ listed → q.getLsbD k = p.getLsbD k

/-- Z and N of `q` are those of the byte `v` (10_state.md R23). -/
def znOf (q v : Byte) : Prop := flagZ q = decide (v.toNat = 0) ∧ flagN q = decide (128 ≤ v.toNat)

/-- PC after an instruction with operand `m` at PC that does not transfer control (10_state.md R14). -/
def State.pcPast (s : State) (m : Operand) : Word := s.pc + BitVec.ofNat 16 (1 + m.operandBytes)

/-- `new` is `old` with byte `v` at index `i`, read by read. -/
def writtenAt (old new : Memory) (i : Nat) (v : Byte) : Prop :=
  ∀ k, Memory.read new k = if k = i then v else Memory.read old k

/-- Byte `i` of a DMA burst from page `hh` (20_memory.md R54): the byte a load gives; in the port range the load of
port 4 gives what the burst itself stored one byte earlier, the 0x00 of port 3. -/
def State.burstByte (s : State) (hh : Byte) (i : Nat) : Byte :=
  if 0x20 ≤ hh.toNat ∧ hh.toNat < 0x40 ∧ i % 8 = 4 then 0x00 else s.memRead (wordOf hh (BitVec.ofNat 8 i))

/-- `t` is `s` after a DMA burst from page `hh`: 256 events in ascending order, the last byte in the OAM data latch,
nothing else. -/
def burstEffect (s t : State) (hh : Byte) : Prop :=
  t = { s with ports := t.ports, videoLog := t.videoLog } ∧
  t.videoLog =
    (List.range 256).reverse.map (fun i => { port := .oamData, value := s.burstByte hh i }) ++ s.videoLog ∧
  t.ports = { s.ports with oamData := s.burstByte hh 255 }

/-- `t` is `s` after a CPU store of `v` to `ea`, range by range (20_memory.md R43, R53, R59). -/
def storeEffect (s t : State) (ea : Word) (v : Byte) : Prop :=
  (ea.toNat < 0x2000 → t = { s with ram := t.ram } ∧ writtenAt s.ram t.ram (ea.toNat % 0x800) v) ∧
  (0x2000 ≤ ea.toNat → ea.toNat < 0x4000 →
    t = { s with ports := t.ports, videoLog := { port := portOf ea, value := v } :: s.videoLog } ∧
    ∀ i, t.ports.latch i = if i = portOf ea ∧ i ≠ .status then v else s.ports.latch i) ∧
  (ea.toNat = 0x4014 → burstEffect s t v) ∧
  (0x4000 ≤ ea.toNat → ea.toNat < 0x6000 → ea.toNat ≠ 0x4014 → t = s) ∧
  (0x6000 ≤ ea.toNat → t = { s with mapper := t.mapper } ∧
    match s.mapper with
    | .nrom => t.mapper = .nrom
    | .mmc1 m => t.mapper = if ea.toNat < 0x8000 then .mmc1 m else .mmc1 (m.serialStore ea v)
    | .test scratch =>
      (ea.toNat < 0x8000 → ∃ new, t.mapper = .test new ∧ writtenAt scratch new (ea.toNat - 0x6000) v) ∧
      (0x8000 ≤ ea.toNat → t.mapper = .test scratch))

/-- `t` is the end of an instruction that writes `v` through operand `m`, its flags in `p`: A, memory, or the
ImmediateStore halt (30_encoding.md R106, 60_exceptions.md R232). -/
def writeEffect (s t : State) (m : Operand) (p v : Byte) : Prop :=
  let u := { s with p := p, pc := s.pcPast m }
  match s.resolve m with
  | .acc => t = { u with a := v }
  | .imm _ => t = { u with status := .halted (.immediateStore u.registerDump) }
  | .mem ea => storeEffect u t ea v

/-- `new` is `old` shifted one place left, `enters` coming in at bit 0 (42_shift_rotate.md R165). -/
def shiftedLeft (old new : Byte) (enters : Bool) : Prop :=
  new.getLsbD 0 = enters ∧ ∀ k, k < 7 → new.getLsbD (k + 1) = old.getLsbD k

/-- `new` is `old` shifted one place right, `enters` coming in at bit 7 (42_shift_rotate.md R165). -/
def shiftedRight (old new : Byte) (enters : Bool) : Prop :=
  new.getLsbD 7 = enters ∧ ∀ k, k < 7 → new.getLsbD k = old.getLsbD (k + 1)

/-- The end of a shift or rotate that turns the operand's byte into `new` and shifts `carry` out. -/
def shiftEffect (s t : State) (m : Operand) (new : Byte) (carry : Bool) : Prop :=
  ∃ p, flagC p = carry ∧ znOf p new ∧ bitsKept [0, 1, 7] s.p p ∧ writeEffect s t m p new

/-- The end of a branch with displacement `d` on condition `cond` (44_control_flow.md R199). -/
def branchEffect (s t : State) (d : Byte) (cond : Bool) : Prop :=
  t = { s with pc := t.pc } ∧
  (t.pc.toNat : Int) =
    ((s.pc.toNat : Int) + 2 +
      (if cond then (if d.toNat < 0x80 then (d.toNat : Int) else (d.toNat : Int) - 0x100) else 0)) % 0x10000

/-- The end of a trap that saved `ret` and `status` and went through `vector` (60_exceptions.md R239). -/
def trapEffect (s t : State) (ret : Word) (status : Byte) (vector : Word) : Prop :=
  t = { s with ram := t.ram, sp := s.sp - 3, p := t.p, pc := t.pc } ∧
  (∀ k, Memory.read t.ram k =
    if k = 0x100 + (s.sp - 2).toNat then status
    else if k = 0x100 + (s.sp - 1).toNat then loByte ret
    else if k = 0x100 + s.sp.toNat then hiByte ret
    else Memory.read s.ram k) ∧
  flagI t.p = true ∧ bitsKept [2] s.p t.p ∧
  t.pc.toNat = (s.memRead vector).toNat + 256 * (s.memRead (vector + 1)).toNat

end Sys2Proof.Machine

namespace Sys2Proof

/-! ### Who writes what (10_state.md R20, R36) -/

/-- The instructions that transfer control (10_state.md R14), beside the unimplemented opcodes, which halt. -/
def Instr.transfersControl : Instr → Bool
  | .jmpAbs _ | .jmpInd _ | .jsr _ | .rts | .bpl _ | .bmi _ | .bvc _ | .bvs _ | .bcc _ | .bcs _ | .bne _
  | .beq _ | .brk | .rti => true
  | .lda _ | .ldx _ | .ldy _ | .sta _ | .stx _ | .sty _ | .tax | .tay | .txa | .tya | .tsx | .txs | .adc _
  | .sbc _ | .and _ | .ora _ | .eor _ | .cmp _ | .cpx _ | .cpy _ | .bit _ | .inc _ | .dec _ | .inx | .iny
  | .dex | .dey | .asl _ | .lsr _ | .rol _ | .ror _ | .pha | .php | .pla | .plp | .clc | .sec | .cli | .sei
  | .cld | .sed | .clv | .nop | .unofficialNop _ _ | .illegal _ => false

/-- Writers of A (10_state.md R36). -/
def Instr.writesA : Instr → Bool
  | .lda _ | .txa | .tya | .adc _ | .sbc _ | .and _ | .ora _ | .eor _ | .pla => true
  | .asl m | .lsr m | .rol m | .ror m => m.mode == .acc
  | .ldx _ | .ldy _ | .sta _ | .stx _ | .sty _ | .tax | .tay | .tsx | .txs | .cmp _ | .cpx _ | .cpy _ | .bit _
  | .inc _ | .dec _ | .inx | .iny | .dex | .dey | .pha | .php | .plp | .clc | .sec | .cli | .sei | .cld | .sed
  | .clv | .jmpAbs _ | .jmpInd _ | .jsr _ | .rts | .bpl _ | .bmi _ | .bvc _ | .bvs _ | .bcc _ | .bcs _ | .bne _
  | .beq _ | .brk | .rti | .nop | .unofficialNop _ _ | .illegal _ => false

/-- Writers of X (R36). -/
def Instr.writesX : Instr → Bool
  | .ldx _ | .tax | .tsx | .inx | .dex => true
  | .lda _ | .ldy _ | .sta _ | .stx _ | .sty _ | .tay | .txa | .tya | .txs | .adc _ | .sbc _ | .and _ | .ora _
  | .eor _ | .cmp _ | .cpx _ | .cpy _ | .bit _ | .inc _ | .dec _ | .iny | .dey | .asl _ | .lsr _ | .rol _
  | .ror _ | .pha | .php | .pla | .plp | .clc | .sec | .cli | .sei | .cld | .sed | .clv | .jmpAbs _ | .jmpInd _
  | .jsr _ | .rts | .bpl _ | .bmi _ | .bvc _ | .bvs _ | .bcc _ | .bcs _ | .bne _ | .beq _ | .brk | .rti | .nop
  | .unofficialNop _ _ | .illegal _ => false

/-- Writers of Y (R36). -/
def Instr.writesY : Instr → Bool
  | .ldy _ | .tay | .iny | .dey => true
  | .lda _ | .ldx _ | .sta _ | .stx _ | .sty _ | .tax | .txa | .tya | .tsx | .txs | .adc _ | .sbc _ | .and _
  | .ora _ | .eor _ | .cmp _ | .cpx _ | .cpy _ | .bit _ | .inc _ | .dec _ | .inx | .dex | .asl _ | .lsr _
  | .rol _ | .ror _ | .pha | .php | .pla | .plp | .clc | .sec | .cli | .sei | .cld | .sed | .clv | .jmpAbs _
  | .jmpInd _ | .jsr _ | .rts | .bpl _ | .bmi _ | .bvc _ | .bvs _ | .bcc _ | .bcs _ | .bne _ | .beq _ | .brk
  | .rti | .nop | .unofficialNop _ _ | .illegal _ => false

/-- Writers of S (R36). -/
def Instr.writesS : Instr → Bool
  | .txs | .pha | .php | .pla | .plp | .jsr _ | .rts | .brk | .rti => true
  | .lda _ | .ldx _ | .ldy _ | .sta _ | .stx _ | .sty _ | .tax | .tay | .txa | .tya | .tsx | .adc _ | .sbc _
  | .and _ | .ora _ | .eor _ | .cmp _ | .cpx _ | .cpy _ | .bit _ | .inc _ | .dec _ | .inx | .iny | .dex | .dey
  | .asl _ | .lsr _ | .rol _ | .ror _ | .clc | .sec | .cli | .sei | .cld | .sed | .clv | .jmpAbs _ | .jmpInd _
  | .bpl _ | .bmi _ | .bvc _ | .bvs _ | .bcc _ | .bcs _ | .bne _ | .beq _ | .nop | .unofficialNop _ _
  | .illegal _ => false

/-- Writers of P.C (10_state.md R20). -/
def Instr.writesC : Instr → Bool
  | .adc _ | .sbc _ | .cmp _ | .cpx _ | .cpy _ | .asl _ | .lsr _ | .rol _ | .ror _ | .plp | .clc | .sec | .rti => true
  | .lda _ | .ldx _ | .ldy _ | .sta _ | .stx _ | .sty _ | .tax | .tay | .txa | .tya | .tsx | .txs | .and _
  | .ora _ | .eor _ | .bit _ | .inc _ | .dec _ | .inx | .iny | .dex | .dey | .pha | .php | .pla | .cli | .sei
  | .cld | .sed | .clv | .jmpAbs _ | .jmpInd _ | .jsr _ | .rts | .bpl _ | .bmi _ | .bvc _ | .bvs _ | .bcc _
  | .bcs _ | .bne _ | .beq _ | .brk | .nop | .unofficialNop _ _ | .illegal _ => false

/-- Writers of P.Z and P.N: the users of SetZN, BIT, PLP, RTI (R20). -/
def Instr.writesZN : Instr → Bool
  | .lda _ | .ldx _ | .ldy _ | .tax | .tay | .txa | .tya | .tsx | .adc _ | .sbc _ | .and _ | .ora _ | .eor _
  | .cmp _ | .cpx _ | .cpy _ | .bit _ | .inc _ | .dec _ | .inx | .iny | .dex | .dey | .asl _ | .lsr _ | .rol _
  | .ror _ | .pla | .plp | .rti => true
  | .sta _ | .stx _ | .sty _ | .txs | .pha | .php | .clc | .sec | .cli | .sei | .cld | .sed | .clv | .jmpAbs _
  | .jmpInd _ | .jsr _ | .rts | .bpl _ | .bmi _ | .bvc _ | .bvs _ | .bcc _ | .bcs _ | .bne _ | .beq _ | .brk
  | .nop | .unofficialNop _ _ | .illegal _ => false

/-- Writers of P.I (R20). -/
def Instr.writesI : Instr → Bool
  | .plp | .cli | .sei | .brk | .rti => true
  | .lda _ | .ldx _ | .ldy _ | .sta _ | .stx _ | .sty _ | .tax | .tay | .txa | .tya | .tsx | .txs | .adc _
  | .sbc _ | .and _ | .ora _ | .eor _ | .cmp _ | .cpx _ | .cpy _ | .bit _ | .inc _ | .dec _ | .inx | .iny
  | .dex | .dey | .asl _ | .lsr _ | .rol _ | .ror _ | .pha | .php | .pla | .clc | .sec | .cld | .sed | .clv
  | .jmpAbs _ | .jmpInd _ | .jsr _ | .rts | .bpl _ | .bmi _ | .bvc _ | .bvs _ | .bcc _ | .bcs _ | .bne _
  | .beq _ | .nop | .unofficialNop _ _ | .illegal _ => false

/-- Writers of P.D (R20). -/
def Instr.writesD : Instr → Bool
  | .plp | .cld | .sed | .rti => true
  | .lda _ | .ldx _ | .ldy _ | .sta _ | .stx _ | .sty _ | .tax | .tay | .txa | .tya | .tsx | .txs | .adc _
  | .sbc _ | .and _ | .ora _ | .eor _ | .cmp _ | .cpx _ | .cpy _ | .bit _ | .inc _ | .dec _ | .inx | .iny
  | .dex | .dey | .asl _ | .lsr _ | .rol _ | .ror _ | .pha | .php | .pla | .clc | .sec | .cli | .sei | .clv
  | .jmpAbs _ | .jmpInd _ | .jsr _ | .rts | .bpl _ | .bmi _ | .bvc _ | .bvs _ | .bcc _ | .bcs _ | .bne _
  | .beq _ | .brk | .nop | .unofficialNop _ _ | .illegal _ => false

/-- Writers of P.B and P.U (R20). -/
def Instr.writesBU : Instr → Bool
  | .plp | .rti => true
  | .lda _ | .ldx _ | .ldy _ | .sta _ | .stx _ | .sty _ | .tax | .tay | .txa | .tya | .tsx | .txs | .adc _
  | .sbc _ | .and _ | .ora _ | .eor _ | .cmp _ | .cpx _ | .cpy _ | .bit _ | .inc _ | .dec _ | .inx | .iny
  | .dex | .dey | .asl _ | .lsr _ | .rol _ | .ror _ | .pha | .php | .pla | .clc | .sec | .cli | .sei | .cld
  | .sed | .clv | .jmpAbs _ | .jmpInd _ | .jsr _ | .rts | .bpl _ | .bmi _ | .bvc _ | .bvs _ | .bcc _ | .bcs _
  | .bne _ | .beq _ | .brk | .nop | .unofficialNop _ _ | .illegal _ => false

/-- Writers of P.V (R20). -/
def Instr.writesV : Instr → Bool
  | .adc _ | .sbc _ | .bit _ | .plp | .clv | .rti => true
  | .lda _ | .ldx _ | .ldy _ | .sta _ | .stx _ | .sty _ | .tax | .tay | .txa | .tya | .tsx | .txs | .and _
  | .ora _ | .eor _ | .cmp _ | .cpx _ | .cpy _ | .inc _ | .dec _ | .inx | .iny | .dex | .dey | .asl _ | .lsr _
  | .rol _ | .ror _ | .pha | .php | .pla | .clc | .sec | .cli | .sei | .cld | .sed | .jmpAbs _ | .jmpInd _
  | .jsr _ | .rts | .bpl _ | .bmi _ | .bvc _ | .bvs _ | .bcc _ | .bcs _ | .bne _ | .beq _ | .brk | .nop
  | .unofficialNop _ _ | .illegal _ => false

end Sys2Proof
end

