-- ==== Sys2Proof/Certificates/Slice0/Obligations.lean ====
section
/-! DEFINITION. The statements for the provers. Each docstring names the rules of spec/ it formalises; where a
statement rests on a decision of the spec or on a choice of the model, it says so. -/

open Sys2Proof Sys2Proof.Machine

/-- O1. Decoding an encoded well-formed instruction gives it back (30_encoding.md R90, 30_encoding.md R107,
30_encoding.md R108, 30_encoding.md R112). For every no-op set, every instruction well-formed under it, whatever
its operand bytes, and every list of bytes after it, decode of encode is that instruction with those bytes left
over. The opcode bytes are the spec's general knowledge (93_implementation_defined.md G1). -/
def Obligations.DecodeInvertsEncode : Prop :=
  ∀ (nops : NopSet) (i : Instr) (rest : List Byte), i.wf nops = true →
    decode nops (encode i ++ rest) = .ok (i, rest)

/-- O2. What decodes is well-formed and is its own encoding (30_encoding.md R90, 30_encoding.md R107, 30_encoding.md
R108, 30_encoding.md R111, 30_encoding.md R112). For every no-op set and every list of bytes: if decode gives an
instruction and the bytes left over, the instruction is well-formed under the set and the list is its encoding
followed by what is left. So every byte string has at most one reading and no opcode byte falls through to a
neighbour. -/
def Obligations.EncodeInvertsDecode : Prop :=
  ∀ (nops : NopSet) (bytes rest : List Byte) (i : Instr), decode nops bytes = .ok (i, rest) →
    i.wf nops = true ∧ bytes = encode i ++ rest

/-- O3. The length of an instruction is a function of its opcode byte and is 1, 2 or 3 (30_encoding.md R90,
30_encoding.md R113). For every no-op set and opcode byte the decoded length does not depend on the two bytes
after it and is 1, 2 or 3; and no register, P included, changes what is fetched at a given PC. -/
def Obligations.LengthDependsOnOpcodeAlone : Prop :=
  (∀ (nops : NopSet) (op lo hi lo' hi' : Byte),
    (decodeBytes nops op lo hi).length = (decodeBytes nops op lo' hi').length ∧
    1 ≤ (decodeBytes nops op lo hi).length ∧ (decodeBytes nops op lo hi).length ≤ 3) ∧
  (∀ (s : State) (a x y sp p : Byte),
    State.fetchInstr { s with a := a, x := x, y := y, sp := sp, p := p } = s.fetchInstr)

/-- O4. Words written out from the spec's encodings decode to the instructions they stand for (30_encoding.md R108,
30_encoding.md R112, 30_encoding.md R114). One word of each family, its operand bytes included: LDA #$80, STA
$4014, ADC $F0,X, BIT $10, INC $0310,X, ROR A, LDX $10,Y, EOR ($10),Y, PLP, JMP ($02FF), JSR $9000, BNE -3, BRK,
RTI, *NOP $1234,X and the unimplemented 0xA7. A sanity statement. -/
def Obligations.SpecWordsDecode : Prop :=
  decodeTableWord 16 0x80A9 = some (.lda (.imm 0x80)) ∧
  decodeTableWord 24 0x40148D = some (.sta (.abs 0x4014)) ∧
  decodeTableWord 16 0xF075 = some (.adc (.zpx 0xF0)) ∧
  decodeTableWord 16 0x1024 = some (.bit (.zp 0x10)) ∧
  decodeTableWord 24 0x0310FE = some (.inc (.abx 0x0310)) ∧
  decodeTableWord 8 0x6A = some (.ror .acc) ∧
  decodeTableWord 16 0x10B6 = some (.ldx (.zpy 0x10)) ∧
  decodeTableWord 16 0x1051 = some (.eor (.izy 0x10)) ∧
  decodeTableWord 8 0x28 = some .plp ∧
  decodeTableWord 24 0x02FF6C = some (.jmpInd 0x02FF) ∧
  decodeTableWord 24 0x900020 = some (.jsr 0x9000) ∧
  decodeTableWord 16 0xFDD0 = some (.bne 0xFD) ∧
  decodeTableWord 8 0x00 = some .brk ∧
  decodeTableWord 8 0x40 = some .rti ∧
  decodeTableWord 24 0x12341C = some (.unofficialNop 0x1C (.word 0x1234)) ∧
  decodeTableWord 8 0xA7 = some (.illegal 0xA7)

/-- O5. A step of a running machine runs the instruction whose bytes stand at PC (30_encoding.md R90, 30_encoding.md
R91, 20_memory.md R80). When the machine is running, no NMI is due after the boundary before the step, and the
bytes at PC, PC+1, PC+2 (modulo 2^16) after that boundary decode to a well-formed instruction, step is exec of
it on the state after the boundary; with nothing left in the outside list, the model's own field, the boundary
changes nothing (DESIGN CHOICE, log 7: with an empty list the video agent never moves and no new NMI request
comes, which is unsafe for a claim about such a state). exec itself moves PC past the instruction's bytes, of
which the fetch reads three (DEDUCED, log 10). -/
def Obligations.StepRunsDecodedInstruction : Prop :=
  ∀ (s : State) (i : Instr) (rest : List Byte),
    s.status = .running → s.boundary.nmiDue = false → i.wf s.params.nopSet = true →
    decode s.params.nopSet
      [s.boundary.memRead s.pc, s.boundary.memRead (s.pc + 1), s.boundary.memRead (s.pc + 2)] = .ok (i, rest) →
    step s = exec i s.boundary ∧ (s.outside = [] → s.boundary = s)

/-- O6. An instruction that does not transfer control ends in a next state, a halted one included, with PC at its
address plus its length (10_state.md R14, 30_encoding.md R90, 60_exceptions.md R230, 60_exceptions.md R231,
60_exceptions.md R232, 92_eei_decisions.md D3). For every instruction outside JMP, JSR, RTS, RTI, BRK and the
branches (an unimplemented opcode included, whose length is 1), in every state, exec answers a next state whose
PC is the old PC plus the instruction's length modulo 2^16 (the wrap is the spec's decision D3). Two forms end
Halted and do not complete: an unimplemented opcode, and a store through Immediate, which no bytes decode to;
that a halt is a next state is the model's form of R230 (DEDUCED, log 9). The operands no bytes decode to, which
the Lean covers as well, rest on log 16 (DEDUCED). -/
def Obligations.InstructionsAdvancePc : Prop :=
  ∀ (i : Instr) (s : State), i.transfersControl = false →
    ∃ t, exec i s = .next t ∧ t.pc.toNat = (s.pc.toNat + i.length) % 0x10000

/-- O7. In Halted no step is possible, and neither reset nor a CHR store changes the state; a running machine can
step (10_state.md R33). In a Halted machine step answers no next state but the fault that names why it halted
(that fault is the model's form of R33, DEDUCED, log 9), the reset operation leaves the machine as it is, and so
does a store of the video chip through the CHR port (both DEDUCED from R33, log 13). Every other status is
Running, in which a step answers a next state. -/
def Obligations.HaltedMachineTakesNoStep : Prop :=
  (∀ (s : State) (why : Fatal) (c : BitVec 13) (v : Byte), s.status = .halted why →
    step s = .fault (.halted why) ∧ s.performReset = s ∧ s.chrStore c v = s) ∧
  (∀ s : State, (s.status = .running ∧ ∃ t, step s = .next t) ∨ ∃ why, s.status = .halted why)

/-- O8. Every step of a running machine answers a next state, Halted counted as one (60_exceptions.md R230,
60_exceptions.md R235, 60_exceptions.md R238). Whatever the registers, the memory and the bytes at PC, a step of
a running machine is neither a fault nor a refusal. That an unimplemented opcode leads to a next state, whose
status is Halted, is the model's form of the spec's fatal condition (R230, U1; DEDUCED, log 9): Halted counts as
a next state here. -/
def Obligations.RunningMachineNeverFaults : Prop :=
  ∀ s : State, s.status = .running → ∃ t, step s = .next t

/-- O9. A step halts a running machine only by an unimplemented opcode (60_exceptions.md R231, 60_exceptions.md
R232, 60_exceptions.md R235, 45_system.md R219). If a step of a running machine ends Halted, no NMI was taken,
the instruction fetched was an unimplemented opcode, and the state is the one before with PC moved by one and
the status Halted with that opcode and the register dump. So no byte sequence reaches the ImmediateStore halt.
That the halt is a next state is the model's form of R230 (DEDUCED, log 9). -/
def Obligations.OnlyUnimplementedOpcodesHalt : Prop :=
  ∀ (s t : State) (why : Fatal), s.status = .running → step s = .next t → t.status = .halted why →
    ∃ op, s.boundary.nmiDue = false ∧ s.boundary.fetchInstr = .illegal op ∧
      why = .unimplementedOpcode op t.registerDump ∧
      t = { s.boundary with pc := s.pc + 1, status := .halted why }

/-- O10. An opcode byte that is neither official nor a no-op halts the machine with the opcode and the register dump
(60_exceptions.md R230, 60_exceptions.md R231, 30_encoding.md R111). exec of an unimplemented opcode answers the
state with PC advanced by one and status Halted(UnimplementedOpcode, op, A X Y S P PC); and a step of a running
machine whose byte at PC is no official opcode and no member of the no-op set, with no NMI due, does exactly
that after the boundary. That the halt is a next state is the model's form of R230 (DEDUCED, log 9). -/
def Obligations.UnimplementedOpcodeHaltsWithDump : Prop :=
  (∀ (s : State) (op : Byte), exec (.illegal op) s =
    .next { s with
      pc := s.pc + 1
      status := .halted (.unimplementedOpcode op
        { a := s.a, x := s.x, y := s.y, sp := s.sp, p := s.p, pc := s.pc + 1 }) }) ∧
  (∀ s : State, s.status = .running → s.boundary.nmiDue = false →
    officialOpcodes.contains (s.boundary.memRead s.pc) = false →
    s.params.nopSet.lengthOf (s.boundary.memRead s.pc) = none →
    step s = exec (.illegal (s.boundary.memRead s.pc)) s.boundary)

/-- O11. A store through Immediate halts with the register dump, and no bytes decode to one (30_encoding.md R95,
60_exceptions.md R232, 30_encoding.md R108). STA, STX, STY with an immediate operand end Halted(ImmediateStore,
dump) with PC past the operand byte and nothing else changed; and no opcode byte, under any no-op set, decodes
to a storing or read-modify-write instruction with an immediate operand. That the halt is a next state (log 9)
and that its dump is taken after PC has passed the operand byte (log 16) are the model's (DEDUCED). -/
def Obligations.StoreThroughImmediateIsFatalAndUnreachable : Prop :=
  (∀ (s : State) (b : Byte),
    let u := { s with pc := s.pc + 2 }
    let halted := { u with status := .halted (.immediateStore u.registerDump) }
    exec (.sta (.imm b)) s = .next halted ∧ exec (.stx (.imm b)) s = .next halted ∧
    exec (.sty (.imm b)) s = .next halted) ∧
  (∀ (nops : NopSet) (op lo hi b : Byte),
    ∀ i ∈ [Instr.sta (.imm b), .stx (.imm b), .sty (.imm b), .inc (.imm b), .dec (.imm b), .asl (.imm b),
      .lsr (.imm b), .rol (.imm b), .ror (.imm b)], decodeBytes nops op lo hi ≠ i)

/-- O12. Every step keeps the machine's invariant (10_state.md R17, 10_state.md R25, 10_state.md R26, 10_state.md
R28, 10_state.md R29, 20_memory.md R62). From every state in which bit 5 of P is 1, RAM is canonical and within
2,048 bytes, the Mapper's own stores are canonical and within their sizes with MM.count at most 4, and the image
is canonical and fits the variant, a step (a DMA burst, an NMI and an agent's move included) gives such a state
again. -/
def Obligations.StepKeepsInvariant : Prop :=
  ∀ s t : State, s.inv = true → step s = .next t → t.inv = true

/-- O13. The state after reset meets the invariant (10_state.md R35). The reset state (whose open values are the
model's choices, log 1 to 6) meets the invariant and is running. -/
def Obligations.ResetMeetsInvariant : Prop :=
  State.reset.inv = true ∧ State.reset.isRunning = true

/-- O14. A constructed machine takes the values it is given, is running and meets the invariant
(70_reset_and_hazards.md R260, 10_state.md R35, 20_memory.md R62). Whenever construction succeeds, the
registers, RAM, latches, image and parameters are those given, the event history is empty, no NMI is pending,
the status is Running, the variant is the test variant exactly when it was asked for and else the one the mapper
number selects, the MMC1-class registers are 0 but MM.control = 0x0C (decision D12), SCRATCH is all zero (D2),
and the invariant holds. -/
def Obligations.ConstructionGivesLegalMachine : Prop :=
  ∀ (c : Construction) (s : State), construct c = .ok s →
    s.inv = true ∧ s.status = .running ∧
    s.a = c.initA ∧ s.x = c.initX ∧ s.y = c.initY ∧ s.sp = c.initS ∧ s.p = c.initP ∧ s.pc = c.initPc ∧
    s.ram = c.ramInit ∧ s.ports = c.vrInit ∧ s.image = c.image ∧ s.params = c.params ∧
    s.videoLog = [] ∧ s.nmiPending = false ∧
    (c.testVariant = true → s.mapper = .test []) ∧
    (c.testVariant = false → c.image.mapperNumber = 0 → s.mapper = .nrom) ∧
    (c.testVariant = false → c.image.mapperNumber = 1 → s.mapper = .mmc1
      { shift := 0, count := 0, control := 0x0C, chr0 := 0, chr1 := 0, prgb := 0, chrRam := c.chrRamInit }) ∧
    (c.testVariant = false → c.image.mapperNumber = 0 ∨ c.image.mapperNumber = 1)

/-- O15. Construction fails exactly on an unsupported mapper number or an image that does not fit (60_exceptions.md
R233, 20_memory.md R62, 10_state.md R26). With admissible parameters (a no-op set with two lengths for one
opcode is not admissible, which is the model's choice, log 25): the mapper number is the high nibble of flags_7
over the high nibble of flags_6; without a request for the test variant a number above 1 is
Fatal(UnsupportedMapper, n); NROM and the test variant are refused unless prg_units is 1 or 2, the MMC1-class
variant if it is 0 (decision D8); in every other case a machine is built. -/
def Obligations.ConstructionRefusals : Prop :=
  ∀ c : Construction, c.admissible = true →
    let n := 16 * (c.image.flags7.toNat / 16) + c.image.flags6.toNat / 16
    let units := c.image.prgUnits.toNat
    c.image.mapperNumber.toNat = n ∧
    (c.testVariant = false → 2 ≤ n →
      construct c = .error (.fatal (.unsupportedMapper c.image.mapperNumber))) ∧
    (c.testVariant = true → units ≠ 1 → units ≠ 2 →
      construct c = .error (.imageMisfit .test c.image.prgUnits)) ∧
    (c.testVariant = false → n = 0 → units ≠ 1 → units ≠ 2 →
      construct c = .error (.imageMisfit .nrom c.image.prgUnits)) ∧
    (c.testVariant = false → n = 1 → units = 0 →
      construct c = .error (.imageMisfit .mmc1 c.image.prgUnits)) ∧
    ((c.testVariant = true ∨ n = 0) → (units = 1 ∨ units = 2) → ∃ s, construct c = .ok s) ∧
    (c.testVariant = false → n = 1 → 1 ≤ units → ∃ s, construct c = .ok s)

/-- O16. The reset operation loads PC from 0xFFFC, low byte first, and nothing else (R261). On a running machine the
reset operation gives the state with PC the word whose low byte a load of 0xFFFC gives and whose high byte a
load of 0xFFFD gives, every other field unchanged. -/
def Obligations.ResetLoadsPcOnly : Prop :=
  ∀ s : State, s.status = .running →
    ∃ w : Word, s.performReset = { s with pc := w } ∧
      w.toNat = (s.memRead 0xFFFC).toNat + 256 * (s.memRead 0xFFFD).toNat

/-- O17. Bit 5 of P starts as 1, no instruction clears it, PLP and RTI force it, and every status byte pushed has it
(R17). A constructed machine has bit 5 of P set; every instruction that ends in a next state from a state with
bit 5 set leaves it set; PLP and RTI leave it set from every state; and from a state with bit 5 set the status
byte that PHP and BRK leave on the stack has it set. -/
def Obligations.StatusBit5AlwaysOne : Prop :=
  (∀ (c : Construction) (s : State), construct c = .ok s → flagU s.p = true) ∧
  (∀ (i : Instr) (s t : State), flagU s.p = true → exec i s = .next t → flagU t.p = true) ∧
  (∀ s : State, ∃ t u, exec .plp s = .next t ∧ exec .rti s = .next u ∧ flagU t.p = true ∧ flagU u.p = true) ∧
  (∀ s : State, flagU s.p = true → s.inv = true → ∃ t u, exec .php s = .next t ∧ exec .brk s = .next u ∧
    flagU (t.memRead (stackAddress (t.sp + 1))) = true ∧ flagU (u.memRead (stackAddress (u.sp + 1))) = true)

/-- O18. No instruction sets the Break bit in P; PLP and RTI clear it (10_state.md R18, 43_stack_flags.md R182,
45_system.md R216, 92_eei_decisions.md D4). Every instruction other than PLP and RTI leaves bit 4 of P as it
was, and PLP and RTI leave it 0; so no step from a state with the bit clear sets it (decision D4). -/
def Obligations.BreakFlagOnlyFalls : Prop :=
  (∀ (i : Instr) (s t : State), exec i s = .next t → i ≠ .plp → i ≠ .rti → flagB t.p = flagB s.p) ∧
  (∀ s : State, ∃ t u, exec .plp s = .next t ∧ exec .rti s = .next u ∧ flagB t.p = false ∧ flagB u.p = false) ∧
  (∀ s t : State, flagB s.p = false → step s = .next t → flagB t.p = false)

/-- O19. A, X, Y and S are written by the listed instructions only (10_state.md R36). For every well-formed
instruction outside the list of 10_state.md R36 for a register, the register is unchanged in the next state: A
outside LDA PLA TXA TYA ADC SBC AND ORA EOR and the accumulator shifts, X outside LDX TAX TSX INX DEX, Y outside
LDY TAY INY DEY, S outside TXS and the pushes and pops. -/
def Obligations.RegisterWriters : Prop :=
  ∀ (i : Instr) (s t : State), i.wf s.params.nopSet = true → exec i s = .next t →
    (i.writesA = false → t.a = s.a) ∧ (i.writesX = false → t.x = s.x) ∧
    (i.writesY = false → t.y = s.y) ∧ (i.writesS = false → t.sp = s.sp)

/-- O20. Each flag is written by the listed instructions only (10_state.md R20). For every instruction outside the
list of 10_state.md R20 for a flag, the flag is unchanged in the next state. -/
def Obligations.FlagWriters : Prop :=
  ∀ (i : Instr) (s t : State), exec i s = .next t →
    (i.writesC = false → flagC t.p = flagC s.p) ∧
    (i.writesZN = false → flagZ t.p = flagZ s.p ∧ flagN t.p = flagN s.p) ∧
    (i.writesI = false → flagI t.p = flagI s.p) ∧ (i.writesD = false → flagD t.p = flagD s.p) ∧
    (i.writesBU = false → flagB t.p = flagB s.p ∧ flagU t.p = flagU s.p) ∧
    (i.writesV = false → flagV t.p = flagV s.p)

/-- O21. Every address reads as before but where a store of the instruction reaches (20_memory.md R44, 20_memory.md
R46, 20_memory.md R49, 20_memory.md R54, 20_memory.md R59, 20_memory.md R64, 20_memory.md R68, 20_memory.md R75,
20_memory.md R81). For every instruction and every address b: if none of the addresses the instruction stores to
(the operand's, computed as the meaning computes it, or the stack slots it pushes to) reaches b through the
mirrors, the ports, the burst or the Mapper, a load of b gives after what it gave before. An instruction that
stores nothing changes no load. -/
def Obligations.LoadsUnchangedOutsideStores : Prop :=
  ∀ (i : Instr) (s t : State), exec i s = .next t →
    ∀ b : Word, (∀ ea ∈ s.storesOf i, s.storeReaches ea b = false) → t.memRead b = s.memRead b

/-- O22. No instruction changes the image, the parameters or the variant, and only stores change RAM, ports and
Mapper (10_state.md R26, 20_memory.md R50, 20_memory.md R58, 20_memory.md R59, 20_memory.md R62). Every
instruction leaves the image, the parameters, the NMI latch, the outside list and the variant alone; it leaves
the port latches, the event history and the Mapper alone unless it stores to the port range, to 0x4014 or to the
Mapper's range; it leaves RAM alone unless it stores below 0x2000; and a well-formed instruction that is
implemented leaves the status alone. -/
def Obligations.DeviceAndConfigurationFrame : Prop :=
  ∀ (i : Instr) (s t : State), exec i s = .next t →
    t.image = s.image ∧ t.params = s.params ∧ t.nmiPending = s.nmiPending ∧ t.outside = s.outside ∧
    t.mapper.identify = s.mapper.identify ∧
    ((∀ ea ∈ s.storesOf i, ea.toNat < 0x2000 ∨ 0x4000 ≤ ea.toNat ∧ ea.toNat < 0x6000 ∧ ea.toNat ≠ 0x4014) →
      t.ports = s.ports ∧ t.videoLog = s.videoLog ∧ t.mapper = s.mapper) ∧
    ((∀ ea ∈ s.storesOf i, 0x2000 ≤ ea.toNat) → t.ram = s.ram) ∧
    (i.wf s.params.nopSet = true → (∀ op, i ≠ .illegal op) → t.status = s.status)

/-- O23. A byte stored below 0x2000 is read back at each of its four mirrors (R44). For every two addresses below
0x2000 that agree modulo 0x800: they read the same byte, and after a bus store to one a bus load of the other
gives the byte stored (RAM in canonical form, which the invariant keeps). -/
def Obligations.RamMirrors : Prop :=
  ∀ (s : State) (a b : Word) (v : Byte), Memory.wf s.ram = true →
    a.toNat < 0x2000 → b.toNat < 0x2000 → b.toNat % 0x800 = a.toNat % 0x800 →
    s.busLoad b = s.busLoad a ∧ (s.busStore a v).busLoad b = v

/-- O24. Open bus loads give 0x00 and bus stores to it change nothing (R49). For every address in 0x4000 to 0x5FFF,
0x4014 included, a bus load gives 0x00 and a bus store leaves the whole state unchanged. -/
def Obligations.OpenBusReadsZeroAndIgnoresStores : Prop :=
  ∀ (s : State) (a : Word) (v : Byte), 0x4000 ≤ a.toNat → a.toNat < 0x6000 →
    s.busLoad a = 0x00 ∧ s.busStore a v = s

/-- O25. A port is selected by the low three address bits, reads its latch or 0, and takes stores but for status
(20_memory.md R46, 20_memory.md R47, 20_memory.md R48, 92_eei_decisions.md D13, 92_eei_decisions.md D14). For
every address in 0x2000 to 0x3FFF: the port's index is the address modulo 8; a load gives the latch of ports 2,
4, 7 and 0x00 of the others; a store appends the event VW, replaces that port's latch unless it is status, and
changes nothing else (indices, latches and events are the spec's decisions D13, D14). -/
def Obligations.PortLoadsAndStores : Prop :=
  ∀ (s : State) (a : Word) (v : Byte), 0x2000 ≤ a.toNat → a.toNat < 0x4000 →
    (portOf a).index = a.toNat % 8 ∧
    s.busLoad a =
      (if a.toNat % 8 = 2 ∨ a.toNat % 8 = 4 ∨ a.toNat % 8 = 7 then s.ports.latch (portOf a) else 0x00) ∧
    ∃ t, s.busStore a v = t ∧
      t = { s with ports := t.ports, videoLog := { port := portOf a, value := v } :: s.videoLog } ∧
      ∀ i, t.ports.latch i = if i = portOf a ∧ a.toNat % 8 ≠ 2 then v else s.ports.latch i

/-- O26. A CPU store does, range by range, what the Bus map says (20_memory.md R43, 20_memory.md R53, 20_memory.md
R54, 20_memory.md R59, 20_memory.md R64, 20_memory.md R75, 20_memory.md R48, 20_memory.md R68, 20_memory.md R71,
20_memory.md R47, 92_eei_decisions.md D13, 92_eei_decisions.md D14). From every state that meets the invariant,
a CPU store to RAM writes one byte of RAM; to a port its latch and an event; to 0x4014 it runs the burst; to the
rest of open bus it does nothing; to the Mapper's range it does nothing under NROM, writes SCRATCH below 0x8000
under the test variant, and under the MMC1-class variant drives the serial register from 0x8000 up and does
nothing below. The port indices, latches and events are the spec's decisions D13 and D14 (log 20; that the
events are kept as a list, newest first, is log 15), and so is, by D13, the 0x00 that a burst from the port
range reads from ports 3 and 4; the MMC1-class protocol and its ignored stores below 0x8000 are decisions D10
and D11 (log 19). -/
def Obligations.CpuStoreByRange : Prop :=
  ∀ (s : State) (ea : Word) (v : Byte), s.inv = true → storeEffect s (s.memWrite ea v) ea v

/-- O27. A CPU store to 0x4014 copies 256 bytes of the page to the OAM data port in order (20_memory.md R47,
20_memory.md R53, 20_memory.md R54, 20_memory.md R58, 92_eei_decisions.md D13). For every page, the port range
included, a CPU store of hh to 0x4014 emits 256 events to port 4 in ascending order of the source address,
leaves the last byte in its latch, and changes no register, no RAM byte, no other latch and no Mapper state; in
the port range the byte read from port 4 is what the burst stored just before, the 0x00 that port 3 reads by
decision D13 (R47, log 20). The list of events, newest first, is the model's form of R48 (log 15). -/
def Obligations.DmaBurstCopiesPage : Prop :=
  ∀ (s : State) (hh : Byte), burstEffect s (s.memWrite 0x4014 hh) hh

/-- O28. The zero-page word load takes both bytes from page 0, the plain word load from two successive addresses
(20_memory.md R55, 20_memory.md R57, 92_eei_decisions.md D3). For every byte b the zero-page word is low byte at
b and high byte at (b + 1) modulo 256, both in page 0, so pointer bytes at 0xFF and 0x00 form a word; the plain
word load takes its high byte at (a + 1) modulo 2^16 instead (that wrap is decision D3, log 18). -/
def Obligations.WordLoadsWrap : Prop :=
  (∀ (s : State) (b : Byte),
    (s.zpWord b).toNat = (s.memRead (BitVec.ofNat 16 b.toNat)).toNat +
      256 * (s.memRead (BitVec.ofNat 16 ((b.toNat + 1) % 0x100))).toNat) ∧
  (∀ (s : State) (a : Word),
    (s.memReadWord a).toNat = (s.memRead a).toNat +
      256 * (s.memRead (BitVec.ofNat 16 ((a.toNat + 1) % 0x10000))).toNat)

/-- O29. Each addressing mode resolves to the address its rule gives, and loads through it (30_encoding.md R94,
30_encoding.md R95, 30_encoding.md R96, 30_encoding.md R97, 30_encoding.md R98, 30_encoding.md R99,
30_encoding.md R100, 30_encoding.md R101, 30_encoding.md R102, 30_encoding.md R103, 30_encoding.md R106).
Accumulator is A, Immediate the operand byte; the zero-page modes wrap the sum at 8 bits, Absolute is the word,
AbsoluteX and AbsoluteY wrap at 16 bits, (zp,X) and (zp),Y take their pointer from page 0 with 8-bit wrap and
(zp),Y adds Y to the whole pointer modulo 2^16 (the 16-bit wraps are decision D3). The operand's byte is A, the
operand byte, or the load of the effective address. -/
def Obligations.EffectiveAddresses : Prop :=
  ∀ (s : State) (b : Byte) (w : Word),
    let zp := fun n : Nat => (s.memRead (BitVec.ofNat 16 (n % 0x100))).toNat
    let at16 := fun n : Nat => Target.mem (BitVec.ofNat 16 n)
    s.resolve .acc = .acc ∧ s.operand .acc = s.a ∧
    s.resolve (.imm b) = .imm b ∧ s.operand (.imm b) = b ∧
    s.resolve (.zp b) = at16 b.toNat ∧
    s.resolve (.zpx b) = at16 ((b.toNat + s.x.toNat) % 0x100) ∧
    s.resolve (.zpy b) = at16 ((b.toNat + s.y.toNat) % 0x100) ∧
    s.resolve (.abs w) = .mem w ∧
    s.resolve (.abx w) = at16 ((w.toNat + s.x.toNat) % 0x10000) ∧
    s.resolve (.aby w) = at16 ((w.toNat + s.y.toNat) % 0x10000) ∧
    s.resolve (.izx b) = at16 (zp (b.toNat + s.x.toNat) + 256 * zp (b.toNat + s.x.toNat + 1)) ∧
    s.resolve (.izy b) = at16 ((zp b.toNat + 256 * zp (b.toNat + 1) + s.y.toNat) % 0x10000) ∧
    ∀ (m : Operand) (ea : Word), s.resolve m = .mem ea → s.operand m = s.memRead ea

/-- O30. NROM reads the image through a 15-bit or 14-bit mask and ignores stores; the test variant does so from
0x8000 up (20_memory.md R63, 20_memory.md R64, 20_memory.md R75). Under NROM, for every address from 0x6000 up,
a load gives the PRG byte at the address modulo 32768 for a 32 KB image and modulo 16384 for a 16 KB image, and
a CPU store changes nothing; under the test variant the same holds for every address from 0x8000 up. -/
def Obligations.NromReadsMaskedImage : Prop :=
  ∀ (s : State) (a : Word) (v : Byte),
    (s.mapper = .nrom ∧ 0x6000 ≤ a.toNat) ∨ ((∃ scratch, s.mapper = .test scratch) ∧ 0x8000 ≤ a.toNat) →
    (s.image.prgUnits = 2 → s.memRead a = Memory.read s.image.prg (a.toNat % 32768)) ∧
    (s.image.prgUnits = 1 → s.memRead a = Memory.read s.image.prg (a.toNat % 16384)) ∧
    s.memWrite a v = s

/-- O31. One MMC1 store resets, shifts or loads; five bit stores into an empty group load the register that the
fifth address selects (20_memory.md R68, 20_memory.md R69, 92_eei_decisions.md D10). From any state of the
MMC1-class registers a store to 0x8000 or above with bit 7 set clears the group and sets MM.control[3:2] to 3.
From any state with MM.count at most 4, a store with bit 7 clear shifts bit 0 of the byte in at bit 4: with
count below 4 the group grows by one and nothing else changes; with count 4 the five bits go to the register
that bits 14:13 of this store's address select among control, chr0, chr1, prgb, the group is empty again, and
nothing else changes. So from any state with an empty group, whatever MM.control and MM.shift hold, five stores
with bit 7 clear deliver w least significant bit first, whatever bits 6 to 1 and the first four addresses are
(decision D10, log 19). -/
def Obligations.Mmc1SerialLoad : Prop :=
  let loaded := fun (m : Mmc1) (a : Word) (w : BitVec 5) =>
    if a.toNat < 0xA000 then { m with shift := 0, count := 0, control := w }
    else if a.toNat < 0xC000 then { m with shift := 0, count := 0, chr0 := w }
    else if a.toNat < 0xE000 then { m with shift := 0, count := 0, chr1 := w }
    else { m with shift := 0, count := 0, prgb := w }
  (∀ (m : Mmc1) (a : Word) (v : Byte), 0x8000 ≤ a.toNat → v.getLsbD 7 = true →
    (Mapper.mmc1 m).prgStore a v = .mmc1 { m with shift := 0, count := 0, control := m.control ||| 0x0C }) ∧
  (∀ (m : Mmc1) (a : Word) (v : Byte), 0x8000 ≤ a.toNat → v.getLsbD 7 = false → m.count.toNat ≤ 4 →
    ∃ w : BitVec 5, w.getLsbD 4 = v.getLsbD 0 ∧ (∀ k, k < 4 → w.getLsbD k = m.shift.getLsbD (k + 1)) ∧
      (m.count.toNat < 4 → (Mapper.mmc1 m).prgStore a v = .mmc1 { m with shift := w, count := m.count + 1 }) ∧
      (m.count.toNat = 4 → (Mapper.mmc1 m).prgStore a v = .mmc1 (loaded m a w))) ∧
  (∀ (m : Mmc1) (a0 a1 a2 a3 a4 : Word) (v0 v1 v2 v3 v4 : Byte) (w : BitVec 5), m.count = 0 →
    (∀ a ∈ [a0, a1, a2, a3, a4], 0x8000 ≤ a.toNat) → (∀ v ∈ [v0, v1, v2, v3, v4], v.getLsbD 7 = false) →
    v0.getLsbD 0 = w.getLsbD 0 → v1.getLsbD 0 = w.getLsbD 1 → v2.getLsbD 0 = w.getLsbD 2 →
    v3.getLsbD 0 = w.getLsbD 3 → v4.getLsbD 0 = w.getLsbD 4 →
    (((((Mapper.mmc1 m).prgStore a0 v0).prgStore a1 v1).prgStore a2 v2).prgStore a3 v3).prgStore a4 v4
      = .mmc1 (loaded m a4 w))

/-- O32. The MMC1-class variant reads the bank its control and prgb registers select (20_memory.md R70, 20_memory.md
R71, 20_memory.md R73, 92_eei_decisions.md D11, 92_eei_decisions.md D12). With n >= 1 banks, for every address
from 0x8000 up a load gives the PRG byte at the offset of 20_memory.md R70 modulo the image's length: modes 0
and 1 one 32 KB bank, mode 2 bank 0 low and the selected bank high, mode 3 the selected bank low and the last
bank high; below 0x8000 a load of the Mapper's range gives 0x00 and a CPU store changes nothing (decisions D11,
D12). -/
def Obligations.Mmc1BankTranslation : Prop :=
  ∀ (s : State) (m : Mmc1) (a : Word) (v : Byte), s.mapper = .mmc1 m →
    let n := s.image.prgUnits.toNat
    let mode := m.control.toNat / 4 % 4
    let b := m.prgb.toNat % 16
    let off :=
      if mode ≤ 1 then b / 2 * 32768 + a.toNat % 32768
      else if mode = 2 then (if a.toNat < 0xC000 then 0 else b * 16384) + a.toNat % 16384
      else (if a.toNat < 0xC000 then b * 16384 else (n - 1) * 16384) + a.toNat % 16384
    (0x8000 ≤ a.toNat → 1 ≤ n → s.memRead a = Memory.read s.image.prg (off % (n * 16384))) ∧
    (0x6000 ≤ a.toNat → a.toNat < 0x8000 → s.memRead a = 0x00 ∧ s.memWrite a v = s)

/-- O33. The test variant's scratch RAM reads back what was stored, byte by byte (20_memory.md R75, 10_state.md
R28). Under the test variant, from a state that meets the invariant: after a CPU store to an address in 0x6000
to 0x7FFF that address reads the byte stored, every other address reads as before, and only SCRATCH has changed. -/
def Obligations.TestVariantScratchRam : Prop :=
  ∀ (s : State) (scratch : Memory) (a : Word) (v : Byte), s.inv = true → s.mapper = .test scratch →
    0x6000 ≤ a.toNat → a.toNat < 0x8000 →
    ∃ t, s.memWrite a v = t ∧ t = { s with mapper := t.mapper } ∧ t.memRead a = v ∧
      ∀ b : Word, b ≠ a → t.memRead b = s.memRead b

/-- O34. The CHR port of each variant (20_memory.md R65, 20_memory.md R67, 20_memory.md R72, 20_memory.md R76,
92_eei_decisions.md D8, 92_eei_decisions.md D9, 92_eei_decisions.md D12). NROM reads the CHR byte at the index
if the image has it and refuses otherwise, and ignores stores; the test variant reads 0 and ignores stores; the
MMC1-class variant with no CHR units, in a running machine that meets the invariant, reads back its CHR-RAM, and
with CHR units reads the bank R72 selects, modulo the CHR length, and ignores stores. The refused NROM read and
the test variant's ignored store are decision D8 (that the refusal is an answer of none is log 21); NROM's
ignored store is R65; the MMC1-class banks, its CHR-RAM and its ignored store are R72 with decisions D9 and D12
(log 19). -/
def Obligations.ChrPorts : Prop :=
  ∀ (s : State) (c c' : BitVec 13) (v : Byte),
    let cn := s.image.chrUnits.toNat
    (s.mapper = .nrom →
      s.chrLoad c = (if c.toNat < cn * 8192 then some (Memory.read s.image.chr c.toNat) else none) ∧
      s.chrStore c v = s) ∧
    (∀ scratch, s.mapper = .test scratch → s.chrLoad c = some 0x00 ∧ s.chrStore c v = s) ∧
    (∀ m, s.mapper = .mmc1 m → 1 ≤ cn → s.chrStore c v = s ∧
      s.chrLoad c = some (Memory.read s.image.chr
        ((if m.control.toNat / 16 = 0 then m.chr0.toNat / 2 * 8192 + c.toNat
          else if c.toNat < 0x1000 then m.chr0.toNat * 4096 + c.toNat
          else m.chr1.toNat * 4096 + c.toNat % 4096) % (cn * 8192)))) ∧
    (∀ m, s.mapper = .mmc1 m → cn = 0 → s.status = .running → s.inv = true →
      (s.chrStore c v).chrLoad c' = if c' = c then some v else s.chrLoad c')

/-- O35. A push stores then decrements, a pull increments then loads, and a pull after a push undoes it (R175,
R176). Push8 writes RAM byte 0x100 + S and then moves S down modulo 256, with no other effect (S = 0x00 writes
0x0100 and leaves 0xFF); Pop8 moves S up modulo 256 and then loads RAM byte 0x100 + S, leaving memory alone (S =
0xFF gives 0x00 and reads 0x0100); a pull right after a push gives the byte pushed and the old S. RAM in
canonical form, which the invariant keeps. -/
def Obligations.PushThenPull : Prop :=
  ∀ (s : State) (v : Byte), Memory.wf s.ram = true →
    (∃ t, s.push8 v = t ∧ t = { s with ram := t.ram, sp := t.sp } ∧
      t.sp.toNat = (s.sp.toNat + 255) % 256 ∧ writtenAt s.ram t.ram (0x100 + s.sp.toNat) v) ∧
    (∃ t, s.pop8 = (Memory.read s.ram (0x100 + (s.sp.toNat + 1) % 256), t) ∧ t = { s with sp := t.sp } ∧
      t.sp.toNat = (s.sp.toNat + 1) % 256) ∧
    (s.push8 v).pop8.1 = v ∧ (s.push8 v).pop8.2.sp = s.sp

/-- O36. A word pull after a word push gives the word and restores S, for every S (43_stack_flags.md R177,
43_stack_flags.md R178). Push16 leaves the high byte at 0x0100 + S and the low byte at 0x0100 + ((S - 1) &
0xFF), each wrapping on its own, and Pop16 right after it gives the word back with the old S (derived in R178). -/
def Obligations.WordPushThenPull : Prop :=
  ∀ (s : State) (w : Word), Memory.wf s.ram = true →
    (∀ k, Memory.read (s.push16 w).ram k =
      if k = 0x100 + s.sp.toNat then hiByte w
      else if k = 0x100 + (s.sp.toNat + 255) % 256 then loByte w else Memory.read s.ram k) ∧
    (s.push16 w).pop16.1 = w ∧ (s.push16 w).pop16.2.sp = s.sp

/-- O37. LDA, LDX, LDY load the operand's byte, set Z and N from it and change nothing else
(40_load_store_transfer.md R121, 40_load_store_transfer.md R122, 40_load_store_transfer.md R123, 10_state.md
R23). In every state and for every operand (the forms 30_encoding.md R108 gives and those no bytes decode to,
which rest on log 16) LDA, LDX and LDY complete: the register takes the operand's byte, Z and N are those of the
byte, PC is past the instruction, and every other register, flag and piece of state is unchanged. -/
def Obligations.LoadInstructions : Prop :=
  ∀ (s : State) (m : Operand),
    let v := s.operand m
    (∃ t, exec (.lda m) s = .next t ∧ t = { s with a := v, p := t.p, pc := s.pcPast m } ∧
      znOf t.p v ∧ bitsKept [1, 7] s.p t.p) ∧
    (∃ t, exec (.ldx m) s = .next t ∧ t = { s with x := v, p := t.p, pc := s.pcPast m } ∧
      znOf t.p v ∧ bitsKept [1, 7] s.p t.p) ∧
    (∃ t, exec (.ldy m) s = .next t ∧ t = { s with y := v, p := t.p, pc := s.pcPast m } ∧
      znOf t.p v ∧ bitsKept [1, 7] s.p t.p)

/-- O38. STA, STX, STY store the register at the effective address and write no flag (40_load_store_transfer.md
R124, 40_load_store_transfer.md R125, 40_load_store_transfer.md R126, 20_memory.md R59, 60_exceptions.md R232).
From every state that meets the invariant and for every operand form 30_encoding.md R108 gives, all of which are
memory forms, STA, STX and STY complete: the register's byte is stored at the effective address with the Bus
map's effect, PC is past the instruction, and no flag and no register but PC changes. For the two operands no
bytes decode to, which the Lean covers as well: through Immediate they end Halted(ImmediateStore) (R232) and
through Accumulator the byte goes to A (DEDUCED, log 16). -/
def Obligations.StoreInstructions : Prop :=
  ∀ (s : State) (m : Operand), s.inv = true →
    (∃ t, exec (.sta m) s = .next t ∧ writeEffect s t m s.p s.a) ∧
    (∃ t, exec (.stx m) s = .next t ∧ writeEffect s t m s.p s.x) ∧
    (∃ t, exec (.sty m) s = .next t ∧ writeEffect s t m s.p s.y)

/-- O39. The six register transfers copy the source; all but TXS set Z and N (40_load_store_transfer.md R127,
40_load_store_transfer.md R128, 40_load_store_transfer.md R129, 40_load_store_transfer.md R130,
40_load_store_transfer.md R131, 40_load_store_transfer.md R132). In every state TAX, TAY, TXA, TYA, TSX copy the
source register, set Z and N from the byte moved and change nothing else but PC; TXS copies X to S and changes
nothing else but PC. -/
def Obligations.TransferInstructions : Prop :=
  ∀ s : State,
    (∃ t, exec .tax s = .next t ∧ t = { s with x := s.a, p := t.p, pc := s.pc + 1 } ∧
      znOf t.p s.a ∧ bitsKept [1, 7] s.p t.p) ∧
    (∃ t, exec .tay s = .next t ∧ t = { s with y := s.a, p := t.p, pc := s.pc + 1 } ∧
      znOf t.p s.a ∧ bitsKept [1, 7] s.p t.p) ∧
    (∃ t, exec .txa s = .next t ∧ t = { s with a := s.x, p := t.p, pc := s.pc + 1 } ∧
      znOf t.p s.x ∧ bitsKept [1, 7] s.p t.p) ∧
    (∃ t, exec .tya s = .next t ∧ t = { s with a := s.y, p := t.p, pc := s.pc + 1 } ∧
      znOf t.p s.y ∧ bitsKept [1, 7] s.p t.p) ∧
    (∃ t, exec .tsx s = .next t ∧ t = { s with x := s.sp, p := t.p, pc := s.pc + 1 } ∧
      znOf t.p s.sp ∧ bitsKept [1, 7] s.p t.p) ∧
    exec .txs s = .next { s with sp := s.x, pc := s.pc + 1 }

/-- O40. ADC: result, carry, overflow, zero and negative of A + M + C (41_arithmetic_logic.md R141,
41_arithmetic_logic.md R140, 10_state.md R23). In every state and for every operand (the forms 30_encoding.md
R108 gives and those no bytes decode to, which rest on log 16) ADC completes: with r = A + M + C on unbounded
integers, A takes r modulo 256, C is r > 255, V holds exactly when A and M share a sign that the result does
not, which is when the signed sum leaves -128 to 127, Z and N are those of the result, the other bits of P and
everything else but PC are unchanged. -/
def Obligations.AddWithCarry : Prop :=
  ∀ (s : State) (m : Operand),
    let v := s.operand m
    let r := s.a.toNat + v.toNat + (if flagC s.p then 1 else 0)
    let signed := s.a.toInt + v.toInt + (if flagC s.p then 1 else 0)
    ∃ t, exec (.adc m) s = .next t ∧ t = { s with a := t.a, p := t.p, pc := s.pcPast m } ∧
      t.a.toNat = r % 256 ∧ flagC t.p = decide (255 < r) ∧ znOf t.p t.a ∧
      (flagV t.p = true ↔ (128 ≤ s.a.toNat ↔ 128 ≤ v.toNat) ∧ ¬(128 ≤ s.a.toNat ↔ 128 ≤ t.a.toNat)) ∧
      (flagV t.p = true ↔ signed < -128 ∨ 127 < signed) ∧
      bitsKept [0, 1, 6, 7] s.p t.p

/-- O41. SBC: result, carry, overflow, zero and negative of A - M - (1 - C) (41_arithmetic_logic.md R142,
41_arithmetic_logic.md R140, 10_state.md R23). In every state and for every operand (the forms 30_encoding.md
R108 gives and those no bytes decode to, which rest on log 16) SBC completes: with r = A - M - (1 - C) on
integers, A takes r modulo 256, C is r >= 0, V holds exactly when A differs in sign from the result and from M,
which is when the signed difference leaves -128 to 127, Z and N are those of the result, the other bits of P and
everything else but PC are unchanged. -/
def Obligations.SubtractWithBorrow : Prop :=
  ∀ (s : State) (m : Operand),
    let v := s.operand m
    let r : Int := s.a.toNat - v.toNat - (if flagC s.p then 0 else 1)
    let signed := s.a.toInt - v.toInt - (if flagC s.p then 0 else 1)
    ∃ t, exec (.sbc m) s = .next t ∧ t = { s with a := t.a, p := t.p, pc := s.pcPast m } ∧
      (t.a.toNat : Int) = r % 256 ∧ flagC t.p = decide (0 ≤ r) ∧ znOf t.p t.a ∧
      (flagV t.p = true ↔
        ¬(128 ≤ s.a.toNat ↔ 128 ≤ t.a.toNat) ∧ ¬(128 ≤ s.a.toNat ↔ 128 ≤ v.toNat)) ∧
      (flagV t.p = true ↔ signed < -128 ∨ 127 < signed) ∧
      bitsKept [0, 1, 6, 7] s.p t.p

/-- O42. SBC of a byte gives the same A and P as ADC of its complement (41_arithmetic_logic.md R142). In every state
and for every operand (the forms 30_encoding.md R108 gives and those no bytes decode to, which rest on log 16)
SBC m and ADC of the immediate byte M ^ 0xFF end with the same A and the same P (R142's derived sentence). -/
def Obligations.SubtractIsAddOfComplement : Prop :=
  ∀ (s : State) (m : Operand),
    ∃ t u, exec (.sbc m) s = .next t ∧ exec (.adc (.imm (s.operand m ^^^ 0xFF))) s = .next u ∧
      t.a = u.a ∧ t.p = u.p

/-- O43. P.D is set, cleared, pushed and pulled, and changes no ADC and no SBC (10_state.md R22,
41_arithmetic_logic.md R141, 41_arithmetic_logic.md R142). SED and CLD set and clear P.D; PHP leaves its value
in bit 3 of the byte on the stack and PLP loads it from there; and whatever P.D holds, ADC and SBC of the same
operand end in the same state but for P.D itself, which keeps its value; this for every operand (the forms
30_encoding.md R108 gives and those no bytes decode to, which rest on log 16, DEDUCED). RAM in canonical form,
which the invariant keeps. -/
def Obligations.DecimalFlagHasNoEffect : Prop :=
  (∀ s : State, ∃ t u, exec .sed s = .next t ∧ exec .cld s = .next u ∧ flagD t.p = true ∧ flagD u.p = false) ∧
  (∀ s : State, Memory.wf s.ram = true → ∃ t u, exec .php s = .next t ∧ exec .plp s = .next u ∧
    flagD (t.memRead (stackAddress s.sp)) = flagD s.p ∧ flagD u.p = flagD (s.memRead (stackAddress (s.sp + 1)))) ∧
  (∀ (s : State) (m : Operand) (d : Bool),
    ∃ t u, exec (.adc m) s = .next t ∧ exec (.sbc m) s = .next u ∧
      exec (.adc m) (s.setP (withD s.p d)) = .next (t.setP (withD t.p d)) ∧
      exec (.sbc m) (s.setP (withD s.p d)) = .next (u.setP (withD u.p d)) ∧
      flagD t.p = flagD s.p ∧ flagD u.p = flagD s.p)

/-- O44. AND, ORA, EOR combine A and the operand bit by bit and set Z and N (41_arithmetic_logic.md R144,
41_arithmetic_logic.md R145, 41_arithmetic_logic.md R146). In every state and for every operand (the forms
30_encoding.md R108 gives and those no bytes decode to, which rest on log 16) AND, ORA and EOR complete: each
bit of A is the and, or, exclusive or of the old bit and the operand's, Z and N are those of the result, C, V
and the rest of P and everything else but PC are unchanged. -/
def Obligations.LogicInstructions : Prop :=
  ∀ (s : State) (m : Operand),
    let v := s.operand m
    (∃ t, exec (.and m) s = .next t ∧ t = { s with a := t.a, p := t.p, pc := s.pcPast m } ∧
      (∀ k, t.a.getLsbD k = (s.a.getLsbD k && v.getLsbD k)) ∧ znOf t.p t.a ∧ bitsKept [1, 7] s.p t.p) ∧
    (∃ t, exec (.ora m) s = .next t ∧ t = { s with a := t.a, p := t.p, pc := s.pcPast m } ∧
      (∀ k, t.a.getLsbD k = (s.a.getLsbD k || v.getLsbD k)) ∧ znOf t.p t.a ∧ bitsKept [1, 7] s.p t.p) ∧
    (∃ t, exec (.eor m) s = .next t ∧ t = { s with a := t.a, p := t.p, pc := s.pcPast m } ∧
      (∀ k, t.a.getLsbD k = (s.a.getLsbD k ^^ v.getLsbD k)) ∧ znOf t.p t.a ∧ bitsKept [1, 7] s.p t.p)

/-- O45. CMP, CPX, CPY set C, Z and N from register minus operand and write no register (41_arithmetic_logic.md
R147, 41_arithmetic_logic.md R148, 41_arithmetic_logic.md R149, 41_arithmetic_logic.md R150). In every state and
for every operand (the forms 30_encoding.md R108 gives and those no bytes decode to, which rest on log 16) CMP,
CPX and CPY complete: C is register >= operand unsigned, Z is equality, N is bit 7 of the low byte of the
difference (not register < operand), the carry in is not used, V and the rest of P and everything else but PC
are unchanged. -/
def Obligations.CompareInstructions : Prop :=
  ∀ (s : State) (m : Operand),
    let v := s.operand m
    let compared := fun (r : Byte) (t : State) =>
      t = { s with p := t.p, pc := s.pcPast m } ∧
      flagC t.p = decide (v.toNat ≤ r.toNat) ∧ flagZ t.p = decide (r = v) ∧
      flagN t.p = decide (128 ≤ (r.toNat + 256 - v.toNat) % 256) ∧ bitsKept [0, 1, 7] s.p t.p
    (∃ t, exec (.cmp m) s = .next t ∧ compared s.a t) ∧
    (∃ t, exec (.cpx m) s = .next t ∧ compared s.x t) ∧
    (∃ t, exec (.cpy m) s = .next t ∧ compared s.y t)

/-- O46. BIT sets Z from A and M, N and V from bits 7 and 6 of M, and nothing else (41_arithmetic_logic.md R151). In
every state and for every operand (the forms 30_encoding.md R108 gives and those no bytes decode to, which rest
on log 16) BIT completes: Z holds exactly when A and M share no set bit, N and V are bits 7 and 6 of M whatever
A holds, A, C and the rest of P and everything else but PC are unchanged (the rule is the spec's general
knowledge, G5). -/
def Obligations.BitTestInstruction : Prop :=
  ∀ (s : State) (m : Operand),
    let v := s.operand m
    ∃ t, exec (.bit m) s = .next t ∧ t = { s with p := t.p, pc := s.pcPast m } ∧
      (flagZ t.p = true ↔ ∀ k, k < 8 → (s.a.getLsbD k && v.getLsbD k) = false) ∧
      flagN t.p = v.getLsbD 7 ∧ flagV t.p = v.getLsbD 6 ∧ bitsKept [1, 6, 7] s.p t.p

/-- O47. INC and DEC write the operand's byte plus or minus one modulo 256 back to the same place
(41_arithmetic_logic.md R152, 41_arithmetic_logic.md R153, 30_encoding.md R106, 20_memory.md R59,
60_exceptions.md R232). From every state that meets the invariant and for every operand form 30_encoding.md R108
gives, all of which are memory forms, INC and DEC complete: the new byte is the loaded byte plus or minus one
modulo 256, Z and N are those of the new byte, C, V and the rest of P are unchanged, and the one store goes to
the address that was loaded, with the Bus map's effect (a port, the DMA trigger and the Mapper included). For
the two operands no bytes decode to, which the Lean covers as well: through Immediate they end
Halted(ImmediateStore) with the flags already written (R232) and through Accumulator the new byte goes to A
(DEDUCED, log 16). -/
def Obligations.IncrementDecrementMemory : Prop :=
  ∀ (s : State) (m : Operand), s.inv = true →
    let v := s.operand m
    (∃ t p new, exec (.inc m) s = .next t ∧ new.toNat = (v.toNat + 1) % 256 ∧
      znOf p new ∧ bitsKept [1, 7] s.p p ∧ writeEffect s t m p new) ∧
    (∃ t p new, exec (.dec m) s = .next t ∧ new.toNat = (v.toNat + 255) % 256 ∧
      znOf p new ∧ bitsKept [1, 7] s.p p ∧ writeEffect s t m p new)

/-- O48. INX, INY, DEX, DEY step their register modulo 256 and set Z and N (41_arithmetic_logic.md R154,
41_arithmetic_logic.md R155, 41_arithmetic_logic.md R156, 41_arithmetic_logic.md R157). In every state INX, INY,
DEX and DEY complete: the register is stepped modulo 256, Z and N are those of the new value, C, V and the rest
of P and everything else but PC are unchanged. -/
def Obligations.IncrementDecrementRegisters : Prop :=
  ∀ s : State,
    (∃ t, exec .inx s = .next t ∧ t = { s with x := t.x, p := t.p, pc := s.pc + 1 } ∧
      t.x.toNat = (s.x.toNat + 1) % 256 ∧ znOf t.p t.x ∧ bitsKept [1, 7] s.p t.p) ∧
    (∃ t, exec .iny s = .next t ∧ t = { s with y := t.y, p := t.p, pc := s.pc + 1 } ∧
      t.y.toNat = (s.y.toNat + 1) % 256 ∧ znOf t.p t.y ∧ bitsKept [1, 7] s.p t.p) ∧
    (∃ t, exec .dex s = .next t ∧ t = { s with x := t.x, p := t.p, pc := s.pc + 1 } ∧
      t.x.toNat = (s.x.toNat + 255) % 256 ∧ znOf t.p t.x ∧ bitsKept [1, 7] s.p t.p) ∧
    (∃ t, exec .dey s = .next t ∧ t = { s with y := t.y, p := t.p, pc := s.pc + 1 } ∧
      t.y.toNat = (s.y.toNat + 255) % 256 ∧ znOf t.p t.y ∧ bitsKept [1, 7] s.p t.p)

/-- O49. ASL, LSR, ROL, ROR shift by one, fill with 0 or the old carry, and shift the lost bit into C
(42_shift_rotate.md R165, 42_shift_rotate.md R166, 42_shift_rotate.md R167, 42_shift_rotate.md R168,
42_shift_rotate.md R169, 30_encoding.md R106, 60_exceptions.md R232). From every state that meets the invariant
and for every operand form 30_encoding.md R108 gives, A included, the four complete: the byte moves one place, 0
enters for ASL and LSR and the old C for ROL and ROR, C is the bit that left, Z and N are those of the new byte,
V and the rest of P are unchanged, and the new byte goes back where the old one was loaded, with the Bus map's
effect. Through Immediate, which no bytes decode to and the Lean covers as well, they end Halted(ImmediateStore)
with the flags already written (R232; DEDUCED, log 16). The directions are the spec's general knowledge (G5). -/
def Obligations.ShiftAndRotateInstructions : Prop :=
  ∀ (s : State) (m : Operand), s.inv = true →
    let v := s.operand m
    (∃ t new, exec (.asl m) s = .next t ∧ shiftedLeft v new false ∧ shiftEffect s t m new (v.getLsbD 7)) ∧
    (∃ t new, exec (.lsr m) s = .next t ∧ shiftedRight v new false ∧ shiftEffect s t m new (v.getLsbD 0)) ∧
    (∃ t new, exec (.rol m) s = .next t ∧ shiftedLeft v new (flagC s.p) ∧ shiftEffect s t m new (v.getLsbD 7)) ∧
    (∃ t new, exec (.ror m) s = .next t ∧ shiftedRight v new (flagC s.p) ∧ shiftEffect s t m new (v.getLsbD 0))

/-- O50. PHA and PHP push A and P with bits 4 and 5 set; PLA and PLP pull A with Z and N, and P through the mask
(43_stack_flags.md R179, 43_stack_flags.md R180, 43_stack_flags.md R181, 43_stack_flags.md R182,
92_eei_decisions.md D4). From every state that meets the invariant: PHA writes A, PHP writes P with bit 4 set
(bit 5 is set already), each to RAM byte 0x100 + S with S then one lower, and neither changes P; PLA and PLP
move S up by one and take the byte at 0x100 + S, PLA into A with Z and N, PLP into P with bit 4 cleared and bit
5 set, leaving memory alone. Nothing else changes but PC (the mask is decision D4). -/
def Obligations.StackInstructions : Prop :=
  ∀ s : State, s.inv = true →
    let top := Memory.read s.ram (0x100 + (s.sp + 1).toNat)
    (∃ t, exec .pha s = .next t ∧ t = { s with ram := t.ram, sp := s.sp - 1, pc := s.pc + 1 } ∧
      writtenAt s.ram t.ram (0x100 + s.sp.toNat) s.a) ∧
    (∃ t pushed, exec .php s = .next t ∧ t = { s with ram := t.ram, sp := s.sp - 1, pc := s.pc + 1 } ∧
      writtenAt s.ram t.ram (0x100 + s.sp.toNat) pushed ∧
      flagB pushed = true ∧ flagU pushed = true ∧ bitsKept [4] s.p pushed) ∧
    (∃ t, exec .pla s = .next t ∧ t = { s with a := top, sp := s.sp + 1, p := t.p, pc := s.pc + 1 } ∧
      znOf t.p top ∧ bitsKept [1, 7] s.p t.p) ∧
    (∃ t, exec .plp s = .next t ∧ t = { s with sp := s.sp + 1, p := t.p, pc := s.pc + 1 } ∧
      flagB t.p = false ∧ flagU t.p = true ∧ bitsKept [4, 5] top t.p)

/-- O51. CLC, SEC, CLI, SEI, CLD, SED, CLV set or clear their one flag and change nothing else (43_stack_flags.md
R183, 43_stack_flags.md R184, 43_stack_flags.md R185, 43_stack_flags.md R186, 43_stack_flags.md R187,
43_stack_flags.md R188, 43_stack_flags.md R189). In every state the seven complete: the named flag takes the
named value, every other bit of P is kept, and nothing else changes but PC. -/
def Obligations.FlagInstructions : Prop :=
  ∀ s : State,
    let setTo := fun (i : Instr) (bit : Nat) (v : Bool) =>
      ∃ t, exec i s = .next t ∧ t = { s with p := t.p, pc := s.pc + 1 } ∧
        t.p.getLsbD bit = v ∧ bitsKept [bit] s.p t.p
    setTo .clc 0 false ∧ setTo .sec 0 true ∧ setTo .cli 2 false ∧ setTo .sei 2 true ∧
    setTo .cld 3 false ∧ setTo .sed 3 true ∧ setTo .clv 6 false

/-- O52. JMP goes to its operand, JMP indirect to the word at its pointer, with or without the page bug
(44_control_flow.md R195, 44_control_flow.md R196, 92_eei_decisions.md D6). In every state JMP absolute sets PC
to the operand and nothing else; JMP indirect sets PC to the word whose low byte is at the pointer and whose
high byte is at the next address, taken inside the pointer's page when JMP_INDIRECT_PAGE_BUG is true and modulo
2^16 when it is false (decision D6), and nothing else. -/
def Obligations.JumpInstructions : Prop :=
  ∀ (s : State) (w : Word),
    exec (.jmpAbs w) s = .next { s with pc := w } ∧
    ∃ t, exec (.jmpInd w) s = .next t ∧ t = { s with pc := t.pc } ∧
      t.pc.toNat % 256 = (s.memRead w).toNat ∧
      (s.params.jmpIndirectPageBug = true → t.pc.toNat / 256 =
        (s.memRead (BitVec.ofNat 16 (w.toNat / 256 * 256 + (w.toNat + 1) % 256))).toNat) ∧
      (s.params.jmpIndirectPageBug = false → t.pc.toNat / 256 =
        (s.memRead (BitVec.ofNat 16 ((w.toNat + 1) % 0x10000))).toNat)

/-- O53. JSR saves the address of its last byte and jumps; RTS goes to the pulled address plus one; RTS after JSR
returns (44_control_flow.md R197, 44_control_flow.md R198, 43_stack_flags.md R177, 43_stack_flags.md R178). From
every state that meets the invariant JSR leaves PC + 2 on the stack, high byte at 0x100 + S, moves S down by two
and goes to its operand; RTS moves S up by two and goes to the pulled word plus one modulo 2^16; an RTS right
after a JSR goes to the address after the JSR with the old S. Nothing else changes. -/
def Obligations.SubroutineCallAndReturn : Prop :=
  ∀ (s : State) (w : Word), s.inv = true →
    (∃ t, exec (.jsr w) s = .next t ∧ t = { s with ram := t.ram, sp := s.sp - 2, pc := w } ∧
      (∀ k, Memory.read t.ram k =
        if k = 0x100 + s.sp.toNat then hiByte (s.pc + 2)
        else if k = 0x100 + (s.sp - 1).toNat then loByte (s.pc + 2) else Memory.read s.ram k) ∧
      ∃ u, exec .rts t = .next u ∧ u = { t with sp := s.sp, pc := s.pc + 3 }) ∧
    (∃ t, exec .rts s = .next t ∧ t = { s with sp := s.sp + 2, pc := t.pc } ∧
      t.pc.toNat = ((Memory.read s.ram (0x100 + (s.sp + 1).toNat)).toNat +
        256 * (Memory.read s.ram (0x100 + (s.sp + 2).toNat)).toNat + 1) % 0x10000)

/-- O54. Each branch consumes its displacement and adds it, signed, when its flag condition holds
(44_control_flow.md R199, 44_control_flow.md R200, 44_control_flow.md R201, 44_control_flow.md R202,
44_control_flow.md R203, 44_control_flow.md R204, 44_control_flow.md R205, 44_control_flow.md R206,
44_control_flow.md R207, 30_encoding.md R105). In every state the eight branches complete and change PC alone:
PC is the branch's address plus 2, plus the signed displacement when the condition holds, modulo 2^16 (the wrap
is decision D3): BPL N clear, BMI N set, BVC V clear, BVS V set, BCC C clear, BCS C set, BNE Z clear, BEQ Z set. -/
def Obligations.BranchInstructions : Prop :=
  ∀ (s : State) (d : Byte),
    (∃ t, exec (.bpl d) s = .next t ∧ branchEffect s t d (!flagN s.p)) ∧
    (∃ t, exec (.bmi d) s = .next t ∧ branchEffect s t d (flagN s.p)) ∧
    (∃ t, exec (.bvc d) s = .next t ∧ branchEffect s t d (!flagV s.p)) ∧
    (∃ t, exec (.bvs d) s = .next t ∧ branchEffect s t d (flagV s.p)) ∧
    (∃ t, exec (.bcc d) s = .next t ∧ branchEffect s t d (!flagC s.p)) ∧
    (∃ t, exec (.bcs d) s = .next t ∧ branchEffect s t d (flagC s.p)) ∧
    (∃ t, exec (.bne d) s = .next t ∧ branchEffect s t d (!flagZ s.p)) ∧
    (∃ t, exec (.beq d) s = .next t ∧ branchEffect s t d (flagZ s.p))

/-- O55. BRK saves its address plus 2 and P with Break set, sets I and goes through 0xFFFE (45_system.md R215,
60_exceptions.md R239, 60_exceptions.md R240, 92_eei_decisions.md D5). From every state that meets the invariant
BRK completes: the stack holds the high and low byte of PC + 2 and the status byte with bit 4 set and every
other bit as it was, S is three lower, I is set and every other bit of P kept (that I is set is decision D5), PC
is the little-endian word at 0xFFFE, and nothing else changes. -/
def Obligations.BreakTakesTrap : Prop :=
  ∀ s : State, s.inv = true →
    ∃ t status, exec .brk s = .next t ∧ trapEffect s t (s.pc + 2) status 0xFFFE ∧
      flagB status = true ∧ bitsKept [4] s.p status

/-- O56. RTI pulls P through the mask and then PC, and undoes a BRK (45_system.md R216, 60_exceptions.md R241,
92_eei_decisions.md D4). In every state RTI moves S up by three, takes P from the first byte with bit 4 cleared
and bit 5 set and PC from the next two, low byte first, with no increment, and changes nothing else; and an RTI
right after a BRK, from a state that meets the invariant, ends at the BRK's address plus 2 with the old S and
the old P but for bit 4, which is 0 (decision D4). -/
def Obligations.ReturnFromInterrupt : Prop :=
  (∀ s : State, ∃ t, exec .rti s = .next t ∧ t = { s with sp := s.sp + 3, p := t.p, pc := t.pc } ∧
    flagB t.p = false ∧ flagU t.p = true ∧
    bitsKept [4, 5] (Memory.read s.ram (0x100 + (s.sp + 1).toNat)) t.p ∧
    t.pc.toNat = (Memory.read s.ram (0x100 + (s.sp + 2).toNat)).toNat +
      256 * (Memory.read s.ram (0x100 + (s.sp + 3).toNat)).toNat) ∧
  (∀ s : State, s.inv = true → ∃ t u, exec .brk s = .next t ∧ exec .rti t = .next u ∧
    u = { t with sp := s.sp, p := u.p, pc := s.pc + 2 } ∧ flagB u.p = false ∧ bitsKept [4] s.p u.p)

/-- O57. NOP and the unofficial no-ops move PC past themselves and change nothing else (45_system.md R217,
45_system.md R218, 30_encoding.md R112, 92_eei_decisions.md D7). In every state NOP moves PC by 1 and every
unofficial no-op moves PC by 1 plus its operand bytes, whatever those are and wherever they would point, and
nothing else changes; with the default set the 27 opcode bytes of 30_encoding.md R112 decode to no-ops of their
length (that those 27 are the set is decision D7). -/
def Obligations.NoOperations : Prop :=
  (∀ s : State, exec .nop s = .next { s with pc := s.pc + 1 }) ∧
  (∀ (s : State) (op b : Byte) (w : Word),
    exec (.unofficialNop op .none) s = .next { s with pc := s.pc + 1 } ∧
    exec (.unofficialNop op (.byte b)) s = .next { s with pc := s.pc + 2 } ∧
    exec (.unofficialNop op (.word w)) s = .next { s with pc := s.pc + 3 }) ∧
  (∀ op lo hi : Byte,
    (op ∈ ([0x1A, 0x3A, 0x5A, 0x7A, 0xDA, 0xFA] : List Byte) →
      decodeBytes Config.defaultNopSet op lo hi = .unofficialNop op .none) ∧
    (op ∈ ([0x80, 0x82, 0x89, 0xC2, 0xE2, 0x04, 0x44, 0x64, 0x14, 0x34, 0x54, 0x74, 0xD4, 0xF4] : List Byte) →
      decodeBytes Config.defaultNopSet op lo hi = .unofficialNop op (.byte lo)) ∧
    (op ∈ ([0x0C, 0x1C, 0x3C, 0x5C, 0x7C, 0xDC, 0xFC] : List Byte) →
      decodeBytes Config.defaultNopSet op lo hi = .unofficialNop op (.word (wordOf hi lo))))

/-- O58. With NMI_ENABLED a pending NMI is taken before the opcode fetch; without it none ever is (60_exceptions.md
R237, 60_exceptions.md R238, 92_eei_decisions.md D16). From every state that meets the invariant with
NMI_ENABLED true and the NMI latched at the boundary, whatever stands at PC and whatever P.I is, a step clears
the latch and takes the trap through 0xFFFA: it saves PC and P with bit 4 clear and bit 5 set and sets I; with
NMI_ENABLED false no NMI is ever due (the sequence is decision D16). -/
def Obligations.NmiTakenAtStepBoundary : Prop :=
  (∀ s : State, s.inv = true → s.status = .running → s.params.nmiEnabled = true → s.boundary.nmiPending = true →
    ∃ t status, step s = .next t ∧ trapEffect { s.boundary with nmiPending := false } t s.pc status 0xFFFA ∧
      flagB status = false ∧ flagU status = true ∧ bitsKept [4, 5] s.p status) ∧
  (∀ s : State, s.params.nmiEnabled = false → s.boundary.nmiDue = false)

/-- O59. The video agent and the NMI request act at the boundary before a step only, the agent on ports 2, 4 and 7
only and only when it is open (20_memory.md R48, 20_memory.md R80, 60_exceptions.md R237, 92_eei_decisions.md
D15). One entry of the outside list (the model's own field, log 7) happens before each step: with VIDEO_AGENT
open and a move, the latches of status, OAM data and data take the move's bytes; with VIDEO_AGENT closed or no
move no latch changes; with NMI_ENABLED true a request sets the NMI latch; every other latch and every other
piece of state is unchanged; with no entry left the boundary changes nothing. A step of a running machine is the
instruction fetched after that boundary, or the NMI due after it (that an NMI takes a step of its own is log 8),
and leaves one entry fewer. During an instruction nothing outside acts: no instruction uses up an entry, sets or
clears the NMI latch, or changes the status latch, which the agent alone writes. -/
def Obligations.OutsideActsAtBoundariesOnly : Prop :=
  (∀ (s : State) (b : Boundary) (rest : List Boundary), s.outside = b :: rest →
    s.boundary = { s with ports := s.boundary.ports, nmiPending := s.boundary.nmiPending, outside := rest } ∧
    s.boundary.nmiPending = (s.nmiPending || (s.params.nmiEnabled && b.nmi)) ∧
    (∀ i, i.readable = false → s.boundary.ports.latch i = s.ports.latch i) ∧
    (s.params.videoAgent = .closed ∨ b.agent = none → s.boundary.ports = s.ports) ∧
    (∀ move, s.params.videoAgent = .opened → b.agent = some move →
      s.boundary.ports.latch .status = move.status ∧ s.boundary.ports.latch .oamData = move.oamData ∧
      s.boundary.ports.latch .data = move.data)) ∧
  (∀ s : State, s.outside = [] → s.boundary = s) ∧
  (∀ s t : State, step s = .next t →
    (if s.boundary.nmiDue then t = s.boundary.takeNmi else exec s.boundary.fetchInstr s.boundary = .next t) ∧
    t.outside = s.outside.tail ∧ t.ports.latch .status = s.boundary.ports.latch .status) ∧
  (∀ (i : Instr) (s t : State), exec i s = .next t →
    t.outside = s.outside ∧ t.nmiPending = s.nmiPending ∧ t.ports.latch .status = s.ports.latch .status)
end

