-- ==== Sys2Proof/Laws/Memory.lean ====
section
/-! SUPPORT. The laws of a byte store: a read after a write, and the canonical form kept by every write. -/

namespace Sys2Proof.Machine

@[simp] theorem Memory.read_nil (i : Nat) : Memory.read [] i = blankByte := rfl

@[simp] theorem Memory.wf_nil : Memory.wf [] = true := rfl

@[simp] theorem Memory.within_nil (n : Nat) : Memory.within n [] = true := rfl

/-- A lower bound may be lowered. -/
theorem Memory.wfFrom_mono {m : Memory} {low low' : Nat} (h : low' ≤ low) (hm : Memory.wfFrom low m = true) :
    Memory.wfFrom low' m = true := by
  cases m with
  | nil => rfl
  | cons c rest =>
    simp only [Memory.wfFrom, Bool.and_eq_true, decide_eq_true_eq] at hm ⊢
    exact ⟨⟨Nat.le_trans h hm.1.1, hm.1.2⟩, hm.2⟩

/-- Below every listed index a store reads blank. -/
theorem Memory.read_below {m : Memory} {low i : Nat} (hm : Memory.wfFrom low m = true) (hi : i < low) :
    Memory.read m i = blankByte := by
  induction m generalizing low with
  | nil => rfl
  | cons c rest ih =>
    obtain ⟨k, v⟩ := c
    simp only [Memory.wfFrom, Bool.and_eq_true, decide_eq_true_eq] at hm
    have hne : i ≠ k := by omega
    simp only [Memory.read, hne, if_false]
    exact ih hm.2 (by omega)

theorem Memory.read_write_same_from {m : Memory} {low : Nat} (i : Nat) (v : Byte)
    (hm : Memory.wfFrom low m = true) : Memory.read (Memory.write m i v) i = v := by
  induction m generalizing low with
  | nil => by_cases hv : v = blankByte <;> simp [Memory.write, Memory.read, hv]
  | cons c rest ih =>
    obtain ⟨k, w⟩ := c
    have hm' := hm
    simp only [Memory.wfFrom, Bool.and_eq_true, decide_eq_true_eq] at hm
    unfold Memory.write
    split
    · rename_i hik
      split
      · rename_i hv
        have : Memory.wfFrom (i + 1) ((k, w) :: rest) = true := by
          simp only [Memory.wfFrom, Bool.and_eq_true, decide_eq_true_eq]
          exact ⟨⟨hik, hm.1.2⟩, hm.2⟩
        rw [hv, Memory.read_below this (Nat.lt_succ_self i)]
      · simp [Memory.read]
    · split
      · split
        · rename_i hik hv
          rw [hv, Memory.read_below hm.2 (by omega)]
        · simp [Memory.read]
      · rename_i hne
        simp only [Memory.read, hne, if_false]
        exact ih hm.2

/-- Reading the index just written gives the byte written. -/
theorem Memory.read_write_same {m : Memory} (i : Nat) (v : Byte) (hm : Memory.wf m = true) :
    Memory.read (Memory.write m i v) i = v := Memory.read_write_same_from i v hm

/-- A write leaves every other index alone, whatever the store's form. -/
theorem Memory.read_write_other {m : Memory} {i j : Nat} (v : Byte) (h : j ≠ i) :
    Memory.read (Memory.write m i v) j = Memory.read m j := by
  induction m with
  | nil => by_cases hv : v = blankByte <;> simp [Memory.write, Memory.read, hv, h]
  | cons c rest ih =>
    obtain ⟨k, w⟩ := c
    unfold Memory.write
    split
    · split
      · rfl
      · simp [Memory.read, h]
    · split
      · rename_i hik
        subst hik
        split <;> simp [Memory.read, h]
      · simp only [Memory.read, ih]

/-- Both cases of a read after a write. -/
theorem Memory.read_write {m : Memory} (i j : Nat) (v : Byte) (hm : Memory.wf m = true) :
    Memory.read (Memory.write m i v) j = if j = i then v else Memory.read m j := by
  split
  · rename_i h
    rw [h, Memory.read_write_same i v hm]
  · rename_i h
    exact Memory.read_write_other v h

theorem Memory.wfFrom_write {m : Memory} {low : Nat} (i : Nat) (v : Byte) (hm : Memory.wfFrom low m = true)
    (hi : low ≤ i) : Memory.wfFrom low (Memory.write m i v) = true := by
  induction m generalizing low with
  | nil => by_cases hv : v = blankByte <;> simp [Memory.write, Memory.wfFrom, hv, hi]
  | cons c rest ih =>
    obtain ⟨k, w⟩ := c
    have hm' := hm
    simp only [Memory.wfFrom, Bool.and_eq_true, decide_eq_true_eq] at hm
    unfold Memory.write
    split
    · rename_i hik
      split
      · exact hm'
      · rename_i hv
        simp only [Memory.wfFrom, Bool.and_eq_true, decide_eq_true_eq]
        exact ⟨⟨hi, by simp [hv]⟩, ⟨hik, hm.1.2⟩, hm.2⟩
    · split
      · rename_i hik
        subst hik
        split
        · exact Memory.wfFrom_mono (by omega) hm.2
        · rename_i hv
          simp only [Memory.wfFrom, Bool.and_eq_true, decide_eq_true_eq]
          exact ⟨⟨hi, by simp [hv]⟩, hm.2⟩
      · simp only [Memory.wfFrom, Bool.and_eq_true, decide_eq_true_eq]
        exact ⟨hm.1, ih hm.2 (by omega)⟩

/-- A write keeps the canonical form. -/
theorem Memory.wf_write {m : Memory} (i : Nat) (v : Byte) (hm : Memory.wf m = true) :
    Memory.wf (Memory.write m i v) = true := Memory.wfFrom_write i v hm (Nat.zero_le i)

theorem Memory.within_cons {size k : Nat} {v : Byte} {rest : Memory} :
    Memory.within size ((k, v) :: rest) = true ↔ k < size ∧ Memory.within size rest = true := by
  simp only [Memory.within, List.all_cons, Bool.and_eq_true, decide_eq_true_eq]

/-- A write below the size keeps the store within it. -/
theorem Memory.within_write {m : Memory} {size i : Nat} (v : Byte) (hm : Memory.within size m = true)
    (hi : i < size) : Memory.within size (Memory.write m i v) = true := by
  induction m with
  | nil =>
    unfold Memory.write
    split
    · exact hm
    · exact Memory.within_cons.2 ⟨hi, hm⟩
  | cons c rest ih =>
    obtain ⟨k, w⟩ := c
    have ⟨hk, hrest⟩ := Memory.within_cons.1 hm
    unfold Memory.write
    split
    · split
      · exact hm
      · exact Memory.within_cons.2 ⟨hi, hm⟩
    · split
      · split
        · exact hrest
        · exact Memory.within_cons.2 ⟨hi, hrest⟩
      · exact Memory.within_cons.2 ⟨hk, ih hrest⟩

/-- Writing a list of bytes keeps the canonical form. -/
theorem Memory.wf_writeList {m : Memory} (i : Nat) (bs : List Byte) (hm : Memory.wf m = true) :
    Memory.wf (Memory.writeList m i bs) = true := by
  induction bs generalizing m i with
  | nil => exact hm
  | cons b bs ih => exact ih (i + 1) (Memory.wf_write i b hm)

/-- At and above its size a store reads blank. -/
theorem Memory.read_outside {m : Memory} {size i : Nat} (hm : Memory.within size m = true) (hi : size ≤ i) :
    Memory.read m i = blankByte := by
  induction m with
  | nil => rfl
  | cons c rest ih =>
    obtain ⟨k, v⟩ := c
    simp only [Memory.within, List.all_cons, Bool.and_eq_true, decide_eq_true_eq] at hm ih
    have hne : i ≠ k := by omega
    simp only [Memory.read, hne, if_false]
    exact ih hm.2

end Sys2Proof.Machine
end

