-- ==== Sys2Proof/Laws/State.lean ====
section
/-! SUPPORT. One lemma per field per register update, so that no later proof unfolds a record update. -/

namespace Sys2Proof.Machine

@[simp] theorem State.setA_a (s : State) (v : Byte) : (s.setA v).a = v := rfl
@[simp] theorem State.setA_x (s : State) (v : Byte) : (s.setA v).x = s.x := rfl
@[simp] theorem State.setA_y (s : State) (v : Byte) : (s.setA v).y = s.y := rfl
@[simp] theorem State.setA_sp (s : State) (v : Byte) : (s.setA v).sp = s.sp := rfl
@[simp] theorem State.setA_p (s : State) (v : Byte) : (s.setA v).p = s.p := rfl
@[simp] theorem State.setA_pc (s : State) (v : Byte) : (s.setA v).pc = s.pc := rfl
@[simp] theorem State.setA_ram (s : State) (v : Byte) : (s.setA v).ram = s.ram := rfl
@[simp] theorem State.setA_ports (s : State) (v : Byte) : (s.setA v).ports = s.ports := rfl
@[simp] theorem State.setA_videoLog (s : State) (v : Byte) : (s.setA v).videoLog = s.videoLog := rfl
@[simp] theorem State.setA_image (s : State) (v : Byte) : (s.setA v).image = s.image := rfl
@[simp] theorem State.setA_mapper (s : State) (v : Byte) : (s.setA v).mapper = s.mapper := rfl
@[simp] theorem State.setA_status (s : State) (v : Byte) : (s.setA v).status = s.status := rfl
@[simp] theorem State.setA_nmiPending (s : State) (v : Byte) : (s.setA v).nmiPending = s.nmiPending := rfl
@[simp] theorem State.setA_params (s : State) (v : Byte) : (s.setA v).params = s.params := rfl
@[simp] theorem State.setA_outside (s : State) (v : Byte) : (s.setA v).outside = s.outside := rfl

@[simp] theorem State.setX_a (s : State) (v : Byte) : (s.setX v).a = s.a := rfl
@[simp] theorem State.setX_x (s : State) (v : Byte) : (s.setX v).x = v := rfl
@[simp] theorem State.setX_y (s : State) (v : Byte) : (s.setX v).y = s.y := rfl
@[simp] theorem State.setX_sp (s : State) (v : Byte) : (s.setX v).sp = s.sp := rfl
@[simp] theorem State.setX_p (s : State) (v : Byte) : (s.setX v).p = s.p := rfl
@[simp] theorem State.setX_pc (s : State) (v : Byte) : (s.setX v).pc = s.pc := rfl
@[simp] theorem State.setX_ram (s : State) (v : Byte) : (s.setX v).ram = s.ram := rfl
@[simp] theorem State.setX_ports (s : State) (v : Byte) : (s.setX v).ports = s.ports := rfl
@[simp] theorem State.setX_videoLog (s : State) (v : Byte) : (s.setX v).videoLog = s.videoLog := rfl
@[simp] theorem State.setX_image (s : State) (v : Byte) : (s.setX v).image = s.image := rfl
@[simp] theorem State.setX_mapper (s : State) (v : Byte) : (s.setX v).mapper = s.mapper := rfl
@[simp] theorem State.setX_status (s : State) (v : Byte) : (s.setX v).status = s.status := rfl
@[simp] theorem State.setX_nmiPending (s : State) (v : Byte) : (s.setX v).nmiPending = s.nmiPending := rfl
@[simp] theorem State.setX_params (s : State) (v : Byte) : (s.setX v).params = s.params := rfl
@[simp] theorem State.setX_outside (s : State) (v : Byte) : (s.setX v).outside = s.outside := rfl

@[simp] theorem State.setY_a (s : State) (v : Byte) : (s.setY v).a = s.a := rfl
@[simp] theorem State.setY_x (s : State) (v : Byte) : (s.setY v).x = s.x := rfl
@[simp] theorem State.setY_y (s : State) (v : Byte) : (s.setY v).y = v := rfl
@[simp] theorem State.setY_sp (s : State) (v : Byte) : (s.setY v).sp = s.sp := rfl
@[simp] theorem State.setY_p (s : State) (v : Byte) : (s.setY v).p = s.p := rfl
@[simp] theorem State.setY_pc (s : State) (v : Byte) : (s.setY v).pc = s.pc := rfl
@[simp] theorem State.setY_ram (s : State) (v : Byte) : (s.setY v).ram = s.ram := rfl
@[simp] theorem State.setY_ports (s : State) (v : Byte) : (s.setY v).ports = s.ports := rfl
@[simp] theorem State.setY_videoLog (s : State) (v : Byte) : (s.setY v).videoLog = s.videoLog := rfl
@[simp] theorem State.setY_image (s : State) (v : Byte) : (s.setY v).image = s.image := rfl
@[simp] theorem State.setY_mapper (s : State) (v : Byte) : (s.setY v).mapper = s.mapper := rfl
@[simp] theorem State.setY_status (s : State) (v : Byte) : (s.setY v).status = s.status := rfl
@[simp] theorem State.setY_nmiPending (s : State) (v : Byte) : (s.setY v).nmiPending = s.nmiPending := rfl
@[simp] theorem State.setY_params (s : State) (v : Byte) : (s.setY v).params = s.params := rfl
@[simp] theorem State.setY_outside (s : State) (v : Byte) : (s.setY v).outside = s.outside := rfl

@[simp] theorem State.setSp_a (s : State) (v : Byte) : (s.setSp v).a = s.a := rfl
@[simp] theorem State.setSp_x (s : State) (v : Byte) : (s.setSp v).x = s.x := rfl
@[simp] theorem State.setSp_y (s : State) (v : Byte) : (s.setSp v).y = s.y := rfl
@[simp] theorem State.setSp_sp (s : State) (v : Byte) : (s.setSp v).sp = v := rfl
@[simp] theorem State.setSp_p (s : State) (v : Byte) : (s.setSp v).p = s.p := rfl
@[simp] theorem State.setSp_pc (s : State) (v : Byte) : (s.setSp v).pc = s.pc := rfl
@[simp] theorem State.setSp_ram (s : State) (v : Byte) : (s.setSp v).ram = s.ram := rfl
@[simp] theorem State.setSp_ports (s : State) (v : Byte) : (s.setSp v).ports = s.ports := rfl
@[simp] theorem State.setSp_videoLog (s : State) (v : Byte) : (s.setSp v).videoLog = s.videoLog := rfl
@[simp] theorem State.setSp_image (s : State) (v : Byte) : (s.setSp v).image = s.image := rfl
@[simp] theorem State.setSp_mapper (s : State) (v : Byte) : (s.setSp v).mapper = s.mapper := rfl
@[simp] theorem State.setSp_status (s : State) (v : Byte) : (s.setSp v).status = s.status := rfl
@[simp] theorem State.setSp_nmiPending (s : State) (v : Byte) : (s.setSp v).nmiPending = s.nmiPending := rfl
@[simp] theorem State.setSp_params (s : State) (v : Byte) : (s.setSp v).params = s.params := rfl
@[simp] theorem State.setSp_outside (s : State) (v : Byte) : (s.setSp v).outside = s.outside := rfl

@[simp] theorem State.setP_a (s : State) (v : Byte) : (s.setP v).a = s.a := rfl
@[simp] theorem State.setP_x (s : State) (v : Byte) : (s.setP v).x = s.x := rfl
@[simp] theorem State.setP_y (s : State) (v : Byte) : (s.setP v).y = s.y := rfl
@[simp] theorem State.setP_sp (s : State) (v : Byte) : (s.setP v).sp = s.sp := rfl
@[simp] theorem State.setP_p (s : State) (v : Byte) : (s.setP v).p = v := rfl
@[simp] theorem State.setP_pc (s : State) (v : Byte) : (s.setP v).pc = s.pc := rfl
@[simp] theorem State.setP_ram (s : State) (v : Byte) : (s.setP v).ram = s.ram := rfl
@[simp] theorem State.setP_ports (s : State) (v : Byte) : (s.setP v).ports = s.ports := rfl
@[simp] theorem State.setP_videoLog (s : State) (v : Byte) : (s.setP v).videoLog = s.videoLog := rfl
@[simp] theorem State.setP_image (s : State) (v : Byte) : (s.setP v).image = s.image := rfl
@[simp] theorem State.setP_mapper (s : State) (v : Byte) : (s.setP v).mapper = s.mapper := rfl
@[simp] theorem State.setP_status (s : State) (v : Byte) : (s.setP v).status = s.status := rfl
@[simp] theorem State.setP_nmiPending (s : State) (v : Byte) : (s.setP v).nmiPending = s.nmiPending := rfl
@[simp] theorem State.setP_params (s : State) (v : Byte) : (s.setP v).params = s.params := rfl
@[simp] theorem State.setP_outside (s : State) (v : Byte) : (s.setP v).outside = s.outside := rfl

@[simp] theorem State.setPc_a (s : State) (v : Word) : (s.setPc v).a = s.a := rfl
@[simp] theorem State.setPc_x (s : State) (v : Word) : (s.setPc v).x = s.x := rfl
@[simp] theorem State.setPc_y (s : State) (v : Word) : (s.setPc v).y = s.y := rfl
@[simp] theorem State.setPc_sp (s : State) (v : Word) : (s.setPc v).sp = s.sp := rfl
@[simp] theorem State.setPc_p (s : State) (v : Word) : (s.setPc v).p = s.p := rfl
@[simp] theorem State.setPc_pc (s : State) (v : Word) : (s.setPc v).pc = v := rfl
@[simp] theorem State.setPc_ram (s : State) (v : Word) : (s.setPc v).ram = s.ram := rfl
@[simp] theorem State.setPc_ports (s : State) (v : Word) : (s.setPc v).ports = s.ports := rfl
@[simp] theorem State.setPc_videoLog (s : State) (v : Word) : (s.setPc v).videoLog = s.videoLog := rfl
@[simp] theorem State.setPc_image (s : State) (v : Word) : (s.setPc v).image = s.image := rfl
@[simp] theorem State.setPc_mapper (s : State) (v : Word) : (s.setPc v).mapper = s.mapper := rfl
@[simp] theorem State.setPc_status (s : State) (v : Word) : (s.setPc v).status = s.status := rfl
@[simp] theorem State.setPc_nmiPending (s : State) (v : Word) : (s.setPc v).nmiPending = s.nmiPending := rfl
@[simp] theorem State.setPc_params (s : State) (v : Word) : (s.setPc v).params = s.params := rfl
@[simp] theorem State.setPc_outside (s : State) (v : Word) : (s.setPc v).outside = s.outside := rfl

@[simp] theorem State.setStatus_a (s : State) (v : Status) : (s.setStatus v).a = s.a := rfl
@[simp] theorem State.setStatus_x (s : State) (v : Status) : (s.setStatus v).x = s.x := rfl
@[simp] theorem State.setStatus_y (s : State) (v : Status) : (s.setStatus v).y = s.y := rfl
@[simp] theorem State.setStatus_sp (s : State) (v : Status) : (s.setStatus v).sp = s.sp := rfl
@[simp] theorem State.setStatus_p (s : State) (v : Status) : (s.setStatus v).p = s.p := rfl
@[simp] theorem State.setStatus_pc (s : State) (v : Status) : (s.setStatus v).pc = s.pc := rfl
@[simp] theorem State.setStatus_ram (s : State) (v : Status) : (s.setStatus v).ram = s.ram := rfl
@[simp] theorem State.setStatus_ports (s : State) (v : Status) : (s.setStatus v).ports = s.ports := rfl
@[simp] theorem State.setStatus_videoLog (s : State) (v : Status) : (s.setStatus v).videoLog = s.videoLog := rfl
@[simp] theorem State.setStatus_image (s : State) (v : Status) : (s.setStatus v).image = s.image := rfl
@[simp] theorem State.setStatus_mapper (s : State) (v : Status) : (s.setStatus v).mapper = s.mapper := rfl
@[simp] theorem State.setStatus_status (s : State) (v : Status) : (s.setStatus v).status = v := rfl
@[simp] theorem State.setStatus_nmiPending (s : State) (v : Status) : (s.setStatus v).nmiPending = s.nmiPending := rfl
@[simp] theorem State.setStatus_params (s : State) (v : Status) : (s.setStatus v).params = s.params := rfl
@[simp] theorem State.setStatus_outside (s : State) (v : Status) : (s.setStatus v).outside = s.outside := rfl

@[simp] theorem State.advance_a (s : State) (n : Nat) : (s.advance n).a = s.a := rfl
@[simp] theorem State.advance_x (s : State) (n : Nat) : (s.advance n).x = s.x := rfl
@[simp] theorem State.advance_y (s : State) (n : Nat) : (s.advance n).y = s.y := rfl
@[simp] theorem State.advance_sp (s : State) (n : Nat) : (s.advance n).sp = s.sp := rfl
@[simp] theorem State.advance_p (s : State) (n : Nat) : (s.advance n).p = s.p := rfl
@[simp] theorem State.advance_pc (s : State) (n : Nat) : (s.advance n).pc = s.pc + BitVec.ofNat 16 n := rfl
@[simp] theorem State.advance_ram (s : State) (n : Nat) : (s.advance n).ram = s.ram := rfl
@[simp] theorem State.advance_ports (s : State) (n : Nat) : (s.advance n).ports = s.ports := rfl
@[simp] theorem State.advance_videoLog (s : State) (n : Nat) : (s.advance n).videoLog = s.videoLog := rfl
@[simp] theorem State.advance_image (s : State) (n : Nat) : (s.advance n).image = s.image := rfl
@[simp] theorem State.advance_mapper (s : State) (n : Nat) : (s.advance n).mapper = s.mapper := rfl
@[simp] theorem State.advance_status (s : State) (n : Nat) : (s.advance n).status = s.status := rfl
@[simp] theorem State.advance_nmiPending (s : State) (n : Nat) : (s.advance n).nmiPending = s.nmiPending := rfl
@[simp] theorem State.advance_params (s : State) (n : Nat) : (s.advance n).params = s.params := rfl
@[simp] theorem State.advance_outside (s : State) (n : Nat) : (s.advance n).outside = s.outside := rfl

@[simp] theorem State.advancePast_a (s : State) (m : Operand) : (s.advancePast m).a = s.a := rfl
@[simp] theorem State.advancePast_x (s : State) (m : Operand) : (s.advancePast m).x = s.x := rfl
@[simp] theorem State.advancePast_y (s : State) (m : Operand) : (s.advancePast m).y = s.y := rfl
@[simp] theorem State.advancePast_sp (s : State) (m : Operand) : (s.advancePast m).sp = s.sp := rfl
@[simp] theorem State.advancePast_p (s : State) (m : Operand) : (s.advancePast m).p = s.p := rfl
@[simp] theorem State.advancePast_pc (s : State) (m : Operand) : (s.advancePast m).pc = s.pc + BitVec.ofNat 16 (1 + m.operandBytes) := rfl
@[simp] theorem State.advancePast_ram (s : State) (m : Operand) : (s.advancePast m).ram = s.ram := rfl
@[simp] theorem State.advancePast_ports (s : State) (m : Operand) : (s.advancePast m).ports = s.ports := rfl
@[simp] theorem State.advancePast_videoLog (s : State) (m : Operand) : (s.advancePast m).videoLog = s.videoLog := rfl
@[simp] theorem State.advancePast_image (s : State) (m : Operand) : (s.advancePast m).image = s.image := rfl
@[simp] theorem State.advancePast_mapper (s : State) (m : Operand) : (s.advancePast m).mapper = s.mapper := rfl
@[simp] theorem State.advancePast_status (s : State) (m : Operand) : (s.advancePast m).status = s.status := rfl
@[simp] theorem State.advancePast_nmiPending (s : State) (m : Operand) : (s.advancePast m).nmiPending = s.nmiPending := rfl
@[simp] theorem State.advancePast_params (s : State) (m : Operand) : (s.advancePast m).params = s.params := rfl
@[simp] theorem State.advancePast_outside (s : State) (m : Operand) : (s.advancePast m).outside = s.outside := rfl

@[simp] theorem State.setZN_a (s : State) (v : Byte) : (s.setZN v).a = s.a := rfl
@[simp] theorem State.setZN_x (s : State) (v : Byte) : (s.setZN v).x = s.x := rfl
@[simp] theorem State.setZN_y (s : State) (v : Byte) : (s.setZN v).y = s.y := rfl
@[simp] theorem State.setZN_sp (s : State) (v : Byte) : (s.setZN v).sp = s.sp := rfl
@[simp] theorem State.setZN_p (s : State) (v : Byte) : (s.setZN v).p = znFlags s.p v := rfl
@[simp] theorem State.setZN_pc (s : State) (v : Byte) : (s.setZN v).pc = s.pc := rfl
@[simp] theorem State.setZN_ram (s : State) (v : Byte) : (s.setZN v).ram = s.ram := rfl
@[simp] theorem State.setZN_ports (s : State) (v : Byte) : (s.setZN v).ports = s.ports := rfl
@[simp] theorem State.setZN_videoLog (s : State) (v : Byte) : (s.setZN v).videoLog = s.videoLog := rfl
@[simp] theorem State.setZN_image (s : State) (v : Byte) : (s.setZN v).image = s.image := rfl
@[simp] theorem State.setZN_mapper (s : State) (v : Byte) : (s.setZN v).mapper = s.mapper := rfl
@[simp] theorem State.setZN_status (s : State) (v : Byte) : (s.setZN v).status = s.status := rfl
@[simp] theorem State.setZN_nmiPending (s : State) (v : Byte) : (s.setZN v).nmiPending = s.nmiPending := rfl
@[simp] theorem State.setZN_params (s : State) (v : Byte) : (s.setZN v).params = s.params := rfl
@[simp] theorem State.setZN_outside (s : State) (v : Byte) : (s.setZN v).outside = s.outside := rfl

@[simp] theorem State.compare_a (s : State) (r m : Byte) : (s.compare r m).a = s.a := rfl
@[simp] theorem State.compare_x (s : State) (r m : Byte) : (s.compare r m).x = s.x := rfl
@[simp] theorem State.compare_y (s : State) (r m : Byte) : (s.compare r m).y = s.y := rfl
@[simp] theorem State.compare_sp (s : State) (r m : Byte) : (s.compare r m).sp = s.sp := rfl
@[simp] theorem State.compare_p (s : State) (r m : Byte) : (s.compare r m).p = compareFlags s.p r m := rfl
@[simp] theorem State.compare_pc (s : State) (r m : Byte) : (s.compare r m).pc = s.pc := rfl
@[simp] theorem State.compare_ram (s : State) (r m : Byte) : (s.compare r m).ram = s.ram := rfl
@[simp] theorem State.compare_ports (s : State) (r m : Byte) : (s.compare r m).ports = s.ports := rfl
@[simp] theorem State.compare_videoLog (s : State) (r m : Byte) : (s.compare r m).videoLog = s.videoLog := rfl
@[simp] theorem State.compare_image (s : State) (r m : Byte) : (s.compare r m).image = s.image := rfl
@[simp] theorem State.compare_mapper (s : State) (r m : Byte) : (s.compare r m).mapper = s.mapper := rfl
@[simp] theorem State.compare_status (s : State) (r m : Byte) : (s.compare r m).status = s.status := rfl
@[simp] theorem State.compare_nmiPending (s : State) (r m : Byte) : (s.compare r m).nmiPending = s.nmiPending := rfl
@[simp] theorem State.compare_params (s : State) (r m : Byte) : (s.compare r m).params = s.params := rfl
@[simp] theorem State.compare_outside (s : State) (r m : Byte) : (s.compare r m).outside = s.outside := rfl

@[simp] theorem State.raiseFatal_a (s : State) (why : Fatal) : (s.raiseFatal why).a = s.a := rfl
@[simp] theorem State.raiseFatal_x (s : State) (why : Fatal) : (s.raiseFatal why).x = s.x := rfl
@[simp] theorem State.raiseFatal_y (s : State) (why : Fatal) : (s.raiseFatal why).y = s.y := rfl
@[simp] theorem State.raiseFatal_sp (s : State) (why : Fatal) : (s.raiseFatal why).sp = s.sp := rfl
@[simp] theorem State.raiseFatal_p (s : State) (why : Fatal) : (s.raiseFatal why).p = s.p := rfl
@[simp] theorem State.raiseFatal_pc (s : State) (why : Fatal) : (s.raiseFatal why).pc = s.pc := rfl
@[simp] theorem State.raiseFatal_ram (s : State) (why : Fatal) : (s.raiseFatal why).ram = s.ram := rfl
@[simp] theorem State.raiseFatal_ports (s : State) (why : Fatal) : (s.raiseFatal why).ports = s.ports := rfl
@[simp] theorem State.raiseFatal_videoLog (s : State) (why : Fatal) : (s.raiseFatal why).videoLog = s.videoLog := rfl
@[simp] theorem State.raiseFatal_image (s : State) (why : Fatal) : (s.raiseFatal why).image = s.image := rfl
@[simp] theorem State.raiseFatal_mapper (s : State) (why : Fatal) : (s.raiseFatal why).mapper = s.mapper := rfl
@[simp] theorem State.raiseFatal_status (s : State) (why : Fatal) : (s.raiseFatal why).status = .halted why := rfl
@[simp] theorem State.raiseFatal_nmiPending (s : State) (why : Fatal) : (s.raiseFatal why).nmiPending = s.nmiPending := rfl
@[simp] theorem State.raiseFatal_params (s : State) (why : Fatal) : (s.raiseFatal why).params = s.params := rfl
@[simp] theorem State.raiseFatal_outside (s : State) (why : Fatal) : (s.raiseFatal why).outside = s.outside := rfl

end Sys2Proof.Machine
end

