-- ==== Sys2Proof/Laws/Bus.lean ====
section
/-! SUPPORT. The Bus and the CPU's access primitives: what a load gives in each range, what a store can change, and
that neither depends on the registers. -/

namespace Sys2Proof.Machine

/-! ### Loads by range -/

theorem ramIndex_eq (a : Word) : ramIndex a = a.toNat % 0x800 := by
  have h : (0x07FF#16).toNat = 2 ^ 11 - 1 := rfl
  rw [ramIndex, BitVec.toNat_and, h, Nat.and_two_pow_sub_one_eq_mod]

theorem ramIndex_lt (a : Word) : ramIndex a < 2048 := by
  rw [ramIndex_eq]; omega

theorem State.busLoad_ram {s : State} {a : Word} (h : a.toNat < 0x2000) :
    s.busLoad a = Memory.read s.ram (ramIndex a) := by
  simp only [State.busLoad, h, if_true]

theorem State.busLoad_ports {s : State} {a : Word} (h : 0x2000 ≤ a.toNat) (h' : a.toNat < 0x4000) :
    s.busLoad a = s.ports.read (portOf a) := by
  have h1 : ¬ a.toNat < 0x2000 := by omega
  simp only [State.busLoad, h1, h', if_true, if_false]

theorem State.busLoad_openBus {s : State} {a : Word} (h : 0x4000 ≤ a.toNat) (h' : a.toNat < 0x6000) :
    s.busLoad a = 0x00 := by
  have h1 : ¬ a.toNat < 0x2000 := by omega
  have h2 : ¬ a.toNat < 0x4000 := by omega
  simp only [State.busLoad, h1, h2, h', if_true, if_false]

theorem State.busLoad_mapper {s : State} {a : Word} (h : 0x6000 ≤ a.toNat) : s.busLoad a = s.prgLoad a := by
  have h1 : ¬ a.toNat < 0x2000 := by omega
  have h2 : ¬ a.toNat < 0x4000 := by omega
  have h3 : ¬ a.toNat < 0x6000 := by omega
  simp only [State.busLoad, h1, h2, h3, if_false]

/-- A load depends on RAM, the latches, the image and the Mapper only. -/
theorem State.busLoad_congr {s t : State} (hr : t.ram = s.ram) (hp : t.ports = s.ports) (hi : t.image = s.image)
    (hm : t.mapper = s.mapper) (a : Word) : t.busLoad a = s.busLoad a := by
  simp only [State.busLoad, State.prgLoad, hr, hp, hi, hm]

/-- The same of the CPU's byte load. -/
theorem State.memRead_congr {s t : State} (hr : t.ram = s.ram) (hp : t.ports = s.ports) (hi : t.image = s.image)
    (hm : t.mapper = s.mapper) (a : Word) : t.memRead a = s.memRead a := State.busLoad_congr hr hp hi hm a

@[simp] theorem State.memRead_setA (s : State) (v : Byte) (b : Word) : (s.setA v).memRead b = s.memRead b := rfl
@[simp] theorem State.memRead_setX (s : State) (v : Byte) (b : Word) : (s.setX v).memRead b = s.memRead b := rfl
@[simp] theorem State.memRead_setY (s : State) (v : Byte) (b : Word) : (s.setY v).memRead b = s.memRead b := rfl
@[simp] theorem State.memRead_setSp (s : State) (v : Byte) (b : Word) : (s.setSp v).memRead b = s.memRead b := rfl
@[simp] theorem State.memRead_setP (s : State) (v : Byte) (b : Word) : (s.setP v).memRead b = s.memRead b := rfl
@[simp] theorem State.memRead_setPc (s : State) (w : Word) (b : Word) : (s.setPc w).memRead b = s.memRead b := rfl
@[simp] theorem State.memRead_setStatus (s : State) (v : Status) (b : Word) : (s.setStatus v).memRead b = s.memRead b := rfl
@[simp] theorem State.memRead_advance (s : State) (n : Nat) (b : Word) : (s.advance n).memRead b = s.memRead b := rfl
@[simp] theorem State.memRead_advancePast (s : State) (m : Operand) (b : Word) : (s.advancePast m).memRead b = s.memRead b := rfl
@[simp] theorem State.memRead_setZN (s : State) (v : Byte) (b : Word) : (s.setZN v).memRead b = s.memRead b := rfl
@[simp] theorem State.memRead_compare (s : State) (r m : Byte) (b : Word) : (s.compare r m).memRead b = s.memRead b := rfl

@[simp] theorem State.resolve_advance (s : State) (n : Nat) (m : Operand) : (s.advance n).resolve m = s.resolve m := by
  cases m <;> rfl

@[simp] theorem State.resolve_advancePast (s : State) (m m' : Operand) :
    (s.advancePast m).resolve m' = s.resolve m' := State.resolve_advance s _ m'

@[simp] theorem State.load_advancePast (s : State) (m : Operand) (t : Target) :
    (s.advancePast m).load t = s.load t := by
  cases t <;> rfl

/-- A data operand does not depend on PC. -/
@[simp] theorem State.operand_advancePast (s : State) (m m' : Operand) :
    (s.advancePast m).operand m' = s.operand m' := by
  simp only [State.operand, State.resolve_advancePast, State.load_advancePast]

/-! ### What a store leaves alone -/

@[simp] theorem State.busStore_a (s : State) (a : Word) (v : Byte) : (s.busStore a v).a = s.a := by
  unfold State.busStore State.vregWrite; (repeat' split) <;> rfl
@[simp] theorem State.busStore_x (s : State) (a : Word) (v : Byte) : (s.busStore a v).x = s.x := by
  unfold State.busStore State.vregWrite; (repeat' split) <;> rfl
@[simp] theorem State.busStore_y (s : State) (a : Word) (v : Byte) : (s.busStore a v).y = s.y := by
  unfold State.busStore State.vregWrite; (repeat' split) <;> rfl
@[simp] theorem State.busStore_sp (s : State) (a : Word) (v : Byte) : (s.busStore a v).sp = s.sp := by
  unfold State.busStore State.vregWrite; (repeat' split) <;> rfl
@[simp] theorem State.busStore_p (s : State) (a : Word) (v : Byte) : (s.busStore a v).p = s.p := by
  unfold State.busStore State.vregWrite; (repeat' split) <;> rfl
@[simp] theorem State.busStore_pc (s : State) (a : Word) (v : Byte) : (s.busStore a v).pc = s.pc := by
  unfold State.busStore State.vregWrite; (repeat' split) <;> rfl
@[simp] theorem State.busStore_image (s : State) (a : Word) (v : Byte) : (s.busStore a v).image = s.image := by
  unfold State.busStore State.vregWrite; (repeat' split) <;> rfl
@[simp] theorem State.busStore_status (s : State) (a : Word) (v : Byte) : (s.busStore a v).status = s.status := by
  unfold State.busStore State.vregWrite; (repeat' split) <;> rfl
@[simp] theorem State.busStore_nmiPending (s : State) (a : Word) (v : Byte) : (s.busStore a v).nmiPending = s.nmiPending := by
  unfold State.busStore State.vregWrite; (repeat' split) <;> rfl
@[simp] theorem State.busStore_params (s : State) (a : Word) (v : Byte) : (s.busStore a v).params = s.params := by
  unfold State.busStore State.vregWrite; (repeat' split) <;> rfl
@[simp] theorem State.busStore_outside (s : State) (a : Word) (v : Byte) : (s.busStore a v).outside = s.outside := by
  unfold State.busStore State.vregWrite; (repeat' split) <;> rfl

@[simp] theorem State.dmaBytes_a (s : State) (hh : Byte) (n : Nat) : (s.dmaBytes hh n).a = s.a := by
  induction n with
  | zero => rfl
  | succ n ih => simp only [State.dmaBytes, State.dmaByte, State.busStore_a, ih]
@[simp] theorem State.dmaBytes_x (s : State) (hh : Byte) (n : Nat) : (s.dmaBytes hh n).x = s.x := by
  induction n with
  | zero => rfl
  | succ n ih => simp only [State.dmaBytes, State.dmaByte, State.busStore_x, ih]
@[simp] theorem State.dmaBytes_y (s : State) (hh : Byte) (n : Nat) : (s.dmaBytes hh n).y = s.y := by
  induction n with
  | zero => rfl
  | succ n ih => simp only [State.dmaBytes, State.dmaByte, State.busStore_y, ih]
@[simp] theorem State.dmaBytes_sp (s : State) (hh : Byte) (n : Nat) : (s.dmaBytes hh n).sp = s.sp := by
  induction n with
  | zero => rfl
  | succ n ih => simp only [State.dmaBytes, State.dmaByte, State.busStore_sp, ih]
@[simp] theorem State.dmaBytes_p (s : State) (hh : Byte) (n : Nat) : (s.dmaBytes hh n).p = s.p := by
  induction n with
  | zero => rfl
  | succ n ih => simp only [State.dmaBytes, State.dmaByte, State.busStore_p, ih]
@[simp] theorem State.dmaBytes_pc (s : State) (hh : Byte) (n : Nat) : (s.dmaBytes hh n).pc = s.pc := by
  induction n with
  | zero => rfl
  | succ n ih => simp only [State.dmaBytes, State.dmaByte, State.busStore_pc, ih]
@[simp] theorem State.dmaBytes_image (s : State) (hh : Byte) (n : Nat) : (s.dmaBytes hh n).image = s.image := by
  induction n with
  | zero => rfl
  | succ n ih => simp only [State.dmaBytes, State.dmaByte, State.busStore_image, ih]
@[simp] theorem State.dmaBytes_status (s : State) (hh : Byte) (n : Nat) : (s.dmaBytes hh n).status = s.status := by
  induction n with
  | zero => rfl
  | succ n ih => simp only [State.dmaBytes, State.dmaByte, State.busStore_status, ih]
@[simp] theorem State.dmaBytes_nmiPending (s : State) (hh : Byte) (n : Nat) : (s.dmaBytes hh n).nmiPending = s.nmiPending := by
  induction n with
  | zero => rfl
  | succ n ih => simp only [State.dmaBytes, State.dmaByte, State.busStore_nmiPending, ih]
@[simp] theorem State.dmaBytes_params (s : State) (hh : Byte) (n : Nat) : (s.dmaBytes hh n).params = s.params := by
  induction n with
  | zero => rfl
  | succ n ih => simp only [State.dmaBytes, State.dmaByte, State.busStore_params, ih]
@[simp] theorem State.dmaBytes_outside (s : State) (hh : Byte) (n : Nat) : (s.dmaBytes hh n).outside = s.outside := by
  induction n with
  | zero => rfl
  | succ n ih => simp only [State.dmaBytes, State.dmaByte, State.busStore_outside, ih]

@[simp] theorem State.memWrite_a (s : State) (a : Word) (v : Byte) : (s.memWrite a v).a = s.a := by
  unfold State.memWrite State.oamDma; split <;> simp only [State.dmaBytes_a, State.busStore_a]
@[simp] theorem State.memWrite_x (s : State) (a : Word) (v : Byte) : (s.memWrite a v).x = s.x := by
  unfold State.memWrite State.oamDma; split <;> simp only [State.dmaBytes_x, State.busStore_x]
@[simp] theorem State.memWrite_y (s : State) (a : Word) (v : Byte) : (s.memWrite a v).y = s.y := by
  unfold State.memWrite State.oamDma; split <;> simp only [State.dmaBytes_y, State.busStore_y]
@[simp] theorem State.memWrite_sp (s : State) (a : Word) (v : Byte) : (s.memWrite a v).sp = s.sp := by
  unfold State.memWrite State.oamDma; split <;> simp only [State.dmaBytes_sp, State.busStore_sp]
@[simp] theorem State.memWrite_p (s : State) (a : Word) (v : Byte) : (s.memWrite a v).p = s.p := by
  unfold State.memWrite State.oamDma; split <;> simp only [State.dmaBytes_p, State.busStore_p]
@[simp] theorem State.memWrite_pc (s : State) (a : Word) (v : Byte) : (s.memWrite a v).pc = s.pc := by
  unfold State.memWrite State.oamDma; split <;> simp only [State.dmaBytes_pc, State.busStore_pc]
@[simp] theorem State.memWrite_image (s : State) (a : Word) (v : Byte) : (s.memWrite a v).image = s.image := by
  unfold State.memWrite State.oamDma; split <;> simp only [State.dmaBytes_image, State.busStore_image]
@[simp] theorem State.memWrite_status (s : State) (a : Word) (v : Byte) : (s.memWrite a v).status = s.status := by
  unfold State.memWrite State.oamDma; split <;> simp only [State.dmaBytes_status, State.busStore_status]
@[simp] theorem State.memWrite_nmiPending (s : State) (a : Word) (v : Byte) : (s.memWrite a v).nmiPending = s.nmiPending := by
  unfold State.memWrite State.oamDma; split <;> simp only [State.dmaBytes_nmiPending, State.busStore_nmiPending]
@[simp] theorem State.memWrite_params (s : State) (a : Word) (v : Byte) : (s.memWrite a v).params = s.params := by
  unfold State.memWrite State.oamDma; split <;> simp only [State.dmaBytes_params, State.busStore_params]
@[simp] theorem State.memWrite_outside (s : State) (a : Word) (v : Byte) : (s.memWrite a v).outside = s.outside := by
  unfold State.memWrite State.oamDma; split <;> simp only [State.dmaBytes_outside, State.busStore_outside]

/-- All a bus store does, by range. -/
theorem State.busStore_cases (s : State) (a : Word) (v : Byte) :
    (a.toNat < 0x2000 ∧ s.busStore a v = { s with ram := Memory.write s.ram (ramIndex a) v }) ∨
    (0x2000 ≤ a.toNat ∧ a.toNat < 0x4000 ∧ s.busStore a v = s.vregWrite (portOf a) v) ∨
    (0x4000 ≤ a.toNat ∧ a.toNat < 0x6000 ∧ s.busStore a v = s) ∨
    (0x6000 ≤ a.toNat ∧ s.busStore a v = { s with mapper := s.mapper.prgStore a v }) := by
  unfold State.busStore
  split
  · exact .inl ⟨‹_›, rfl⟩
  · split
    · exact .inr (.inl ⟨by omega, ‹_›, rfl⟩)
    · split
      · exact .inr (.inr (.inl ⟨by omega, ‹_›, rfl⟩))
      · exact .inr (.inr (.inr ⟨by omega, rfl⟩))

/-- All one byte of a DMA burst does: the OAM data latch and one event. -/
theorem State.dmaByte_eq (s : State) (hh i : Byte) :
    s.dmaByte hh i =
      { s with
        ports := { s.ports with oamData := s.busLoad (wordOf hh i) }
        videoLog := { port := .oamData, value := s.busLoad (wordOf hh i) } :: s.videoLog } := rfl

@[simp] theorem State.dmaBytes_ram (s : State) (hh : Byte) (n : Nat) : (s.dmaBytes hh n).ram = s.ram := by
  induction n with
  | zero => rfl
  | succ n ih => rw [State.dmaBytes, State.dmaByte_eq]; exact ih

@[simp] theorem State.dmaBytes_mapper (s : State) (hh : Byte) (n : Nat) : (s.dmaBytes hh n).mapper = s.mapper := by
  induction n with
  | zero => rfl
  | succ n ih => rw [State.dmaBytes, State.dmaByte_eq]; exact ih

/-- A burst changes no latch but OAM data. -/
theorem State.dmaBytes_latch (s : State) (hh : Byte) (n : Nat) {i : Port} (h : i ≠ .oamData) :
    (s.dmaBytes hh n).ports.latch i = s.ports.latch i := by
  induction n with
  | zero => rfl
  | succ n ih =>
    rw [State.dmaBytes, State.dmaByte_eq, ← ih]
    cases i <;> first | rfl | exact absurd rfl h

/-- All a CPU store does: the burst at the trigger, else the bus store. -/
theorem State.memWrite_cases (s : State) (a : Word) (v : Byte) :
    (a = Config.dmaTrigger ∧ s.memWrite a v = s.dmaBytes v 256) ∨
    (a ≠ Config.dmaTrigger ∧ s.memWrite a v = s.busStore a v) := by
  unfold State.memWrite
  split
  · exact .inl ⟨‹_›, rfl⟩
  · exact .inr ⟨‹_›, rfl⟩

/-! ### The stack page -/

theorem stackAddress_toNat (sp : Byte) : (stackAddress sp).toNat = 0x100 + sp.toNat := by
  have h := sp.isLt
  simp only [stackAddress, BitVec.toNat_add, toNat_zext16]
  have : (0x0100 : Word).toNat = 0x100 := rfl
  omega

theorem ramIndex_stackAddress (sp : Byte) : ramIndex (stackAddress sp) = 0x100 + sp.toNat := by
  have h := sp.isLt
  rw [ramIndex_eq, stackAddress_toNat]
  omega

/-- A store to the stack page writes one byte of RAM and nothing else: it is never the DMA trigger. -/
theorem State.memWrite_stack (s : State) (sp v : Byte) :
    s.memWrite (stackAddress sp) v = { s with ram := Memory.write s.ram (0x100 + sp.toNat) v } := by
  have h := sp.isLt
  have hne : stackAddress sp ≠ Config.dmaTrigger := by
    intro e
    have := congrArg BitVec.toNat e
    rw [stackAddress_toNat] at this
    have h' : Config.dmaTrigger.toNat = 0x4014 := rfl
    omega
  have hlt : (stackAddress sp).toNat < 0x2000 := by rw [stackAddress_toNat]; omega
  simp only [State.memWrite, hne, if_false, State.busStore, hlt, if_true, ramIndex_stackAddress]

/-- A load from the stack page reads one byte of RAM. -/
theorem State.memRead_stack (s : State) (sp : Byte) :
    s.memRead (stackAddress sp) = Memory.read s.ram (0x100 + sp.toNat) := by
  have h := sp.isLt
  have hlt : (stackAddress sp).toNat < 0x2000 := by rw [stackAddress_toNat]; omega
  rw [State.memRead, State.busLoad_ram hlt, ramIndex_stackAddress]

/-- All a push does. -/
theorem State.push8_eq (s : State) (v : Byte) :
    s.push8 v = { s with ram := Memory.write s.ram (0x100 + s.sp.toNat) v, sp := s.sp - 1 } := by
  rw [State.push8, State.memWrite_stack]; rfl

/-- All a pull does. -/
theorem State.pop8_eq (s : State) :
    s.pop8 = (Memory.read s.ram (0x100 + (s.sp + 1).toNat), { s with sp := s.sp + 1 }) := by
  simp only [State.pop8, State.setSp_sp, State.memRead_stack]
  rfl

/-- All a word push does: the high byte at the higher slot. -/
theorem State.push16_eq (s : State) (w : Word) :
    s.push16 w =
      { s with
        ram := Memory.write (Memory.write s.ram (0x100 + s.sp.toNat) (hiByte w)) (0x100 + (s.sp - 1).toNat) (loByte w)
        sp := s.sp - 1 - 1 } := by
  rw [State.push16, State.push8_eq, State.push8_eq]

/-- All a word pull does: the low byte from the lower slot. -/
theorem State.pop16_eq (s : State) :
    s.pop16 =
      (wordOf (Memory.read s.ram (0x100 + (s.sp + 1 + 1).toNat)) (Memory.read s.ram (0x100 + (s.sp + 1).toNat)),
        { s with sp := s.sp + 1 + 1 }) := by
  simp only [State.pop16, State.pop8_eq]

/-- All taking a trap does, but for PC: three bytes pushed, S moved by three, P.I set. -/
theorem State.takeTrap_eq (s : State) (ret : Word) (status : Byte) (vector : Word) :
    ∃ target, s.takeTrap ret status vector =
      { s with
        ram := Memory.write (Memory.write (Memory.write s.ram (0x100 + s.sp.toNat) (hiByte ret))
          (0x100 + (s.sp - 1).toNat) (loByte ret)) (0x100 + (s.sp - 1 - 1).toNat) status
        sp := s.sp - 1 - 1 - 1
        p := withI s.p true
        pc := target } := by
  simp only [State.takeTrap, State.push16_eq, State.push8_eq]
  exact ⟨_, rfl⟩

/-- All a return from a trap does. -/
theorem State.returnFromTrap_eq (s : State) :
    s.returnFromTrap =
      { s with
        sp := s.sp + 1 + 1 + 1
        p := pulledStatus (Memory.read s.ram (0x100 + (s.sp + 1).toNat))
        pc := wordOf (Memory.read s.ram (0x100 + (s.sp + 1 + 1 + 1).toNat))
          (Memory.read s.ram (0x100 + (s.sp + 1 + 1).toNat)) } := by
  simp only [State.returnFromTrap, State.pop8_eq, State.pop16_eq]
  rfl

/-- A store through a resolved mode changes A, or halts, or is one CPU store. -/
theorem State.store_cases (s : State) (t : Target) (v : Byte) :
    (t = .acc ∧ s.store t v = s.setA v) ∨
    (∃ b, t = .imm b ∧ s.store t v = s.raiseFatal (.immediateStore s.registerDump)) ∨
    (∃ ea, t = .mem ea ∧ s.store t v = s.memWrite ea v) := by
  cases t with
  | acc => exact .inl ⟨rfl, rfl⟩
  | imm b => exact .inr (.inl ⟨b, rfl, rfl⟩)
  | mem ea => exact .inr (.inr ⟨ea, rfl, rfl⟩)

@[simp] theorem State.store_p (s : State) (t : Target) (v : Byte) : (s.store t v).p = s.p := by
  cases t <;> simp [State.store, State.raiseFatal]
@[simp] theorem State.store_x (s : State) (t : Target) (v : Byte) : (s.store t v).x = s.x := by
  cases t <;> simp [State.store, State.raiseFatal]
@[simp] theorem State.store_y (s : State) (t : Target) (v : Byte) : (s.store t v).y = s.y := by
  cases t <;> simp [State.store, State.raiseFatal]
@[simp] theorem State.store_sp (s : State) (t : Target) (v : Byte) : (s.store t v).sp = s.sp := by
  cases t <;> simp [State.store, State.raiseFatal]
@[simp] theorem State.store_pc (s : State) (t : Target) (v : Byte) : (s.store t v).pc = s.pc := by
  cases t <;> simp [State.store, State.raiseFatal]

/-- All a branch does: PC alone. -/
theorem State.branch_eq (s : State) (cond : Bool) (d : Byte) :
    s.branch cond d = { s with pc := if cond then s.pc + sext16 d else s.pc } := by
  cases cond <;> rfl

/-! ### Words and ports -/

theorem State.toNat_memReadWord (s : State) (a : Word) :
    (s.memReadWord a).toNat = (s.memRead (a + 1)).toNat * 256 + (s.memRead a).toNat := toNat_wordOf _ _

theorem State.toNat_zpWord (s : State) (b : Byte) :
    (s.zpWord b).toNat = (s.memRead (zext16 (b + 1))).toNat * 256 + (s.memRead (zext16 b)).toNat := toNat_wordOf _ _

/-- The port an address selects, by the low three address bits. -/
theorem portOf_eq_iff (a : Word) (i : Port) : portOf a = i ↔ a.toNat % 8 = i.index := by
  have h : a.toNat % 8 < 8 := Nat.mod_lt _ (by omega)
  unfold portOf
  generalize a.toNat % 8 = n at *
  have hc : n = 0 ∨ n = 1 ∨ n = 2 ∨ n = 3 ∨ n = 4 ∨ n = 5 ∨ n = 6 ∨ n = 7 := by omega
  rcases hc with rfl | rfl | rfl | rfl | rfl | rfl | rfl | rfl <;> cases i <;> decide

/-- The latches after a port store: the one port's, unless it is status. -/
theorem VideoPorts.latch_write (r : VideoPorts) (i j : Port) (v : Byte) :
    (r.write i v).latch j = if j = i ∧ i ≠ .status then v else r.latch j := by
  cases i <;> cases j <;> rfl

/-! ### The status latch, which no store changes (20_memory.md R48) -/

theorem State.busStore_statusLatch (s : State) (a : Word) (v : Byte) :
    (s.busStore a v).ports.latch .status = s.ports.latch .status := by
  rcases s.busStore_cases a v with ⟨_, e⟩ | ⟨_, _, e⟩ | ⟨_, _, e⟩ | ⟨_, e⟩ <;> rw [e]
  exact (VideoPorts.latch_write _ _ _ _).trans (if_neg fun h => h.2 h.1.symm)

theorem State.memWrite_statusLatch (s : State) (a : Word) (v : Byte) :
    (s.memWrite a v).ports.latch .status = s.ports.latch .status := by
  rcases s.memWrite_cases a v with ⟨_, e⟩ | ⟨_, e⟩ <;> rw [e]
  · exact s.dmaBytes_latch v 256 (by decide)
  · exact s.busStore_statusLatch a v

theorem State.store_statusLatch (s : State) (t : Target) (v : Byte) :
    (s.store t v).ports.latch .status = s.ports.latch .status := by
  rcases s.store_cases t v with ⟨_, e⟩ | ⟨_, _, e⟩ | ⟨ea, _, e⟩ <;> rw [e]
  · rfl
  · rfl
  · exact s.memWrite_statusLatch ea v

theorem State.takeTrap_statusLatch (s : State) (ret : Word) (status : Byte) (vector : Word) :
    (s.takeTrap ret status vector).ports.latch .status = s.ports.latch .status := by
  obtain ⟨_, e⟩ := s.takeTrap_eq ret status vector
  rw [e]

end Sys2Proof.Machine
end

