-- ==== Sys2Proof/Laws/Decode.lean ====
section
/-! SUPPORT. What the decoder's opcode map leaves out, and a word as its two operand bytes. -/

namespace Sys2Proof

/-- Every operand word is two operand bytes. -/
theorem exists_wordOf (w : Word) : ∃ hi lo, w = wordOf hi lo := ⟨hiByte w, loByte w, (wordOf_bytes w).symm⟩

/-- An opcode byte outside the official list is in no row of the opcode map. -/
theorem decodeOfficial_eq_none {op : Byte} (h : officialOpcodes.contains op = false) (lo hi : Byte) :
    decodeOfficial op lo hi = none := by
  unfold decodeOfficial
  split
  all_goals first | rfl | exact absurd h (by decide)

end Sys2Proof
end

