-- ==== Sys2Proof/Laws/Driver.lean ====
section
/-! SUPPORT. The state after reset is what construction and the reset operation give. -/

namespace Sys2Proof.Machine

/-- `State.reset` is the construction of the default parameters followed by the reset operation
(70_reset_and_hazards.md R260, R261). -/
theorem reset_is_constructed_and_reset :
    (construct Construction.default).map State.performReset = .ok State.reset := rfl

end Sys2Proof.Machine
end

