-- ==== Sys2Proof/Laws/Flags.lean ====
section
/-! SUPPORT. What each replacement of a status bit does to each bit, and the shared flag computations bit by bit. -/

namespace Sys2Proof.Machine

theorem getLsbD_withBits (p mask : Byte) (v : Bool) (k : Nat) :
    (withBits p mask v).getLsbD k = if mask.getLsbD k then v else p.getLsbD k := by
  unfold withBits
  by_cases hk : k < 8
  · cases v
    · simp only [BitVec.getLsbD_and, BitVec.getLsbD_not, hk, decide_true, Bool.true_and, Bool.false_eq_true, if_false]
      cases mask.getLsbD k <;> simp
    · simp only [BitVec.getLsbD_or, if_true]
      cases mask.getLsbD k <;> simp
  · have h8 : 8 ≤ k := by omega
    rw [BitVec.getLsbD_of_ge mask k h8, BitVec.getLsbD_of_ge p k h8, BitVec.getLsbD_of_ge _ k h8]
    rfl

/-- Which bits a one-bit mask has. -/
theorem getLsbD_mask {k : Nat} (n : Nat) (hn : n < 8) :
    (BitVec.ofNat 8 (2 ^ n)).getLsbD k = decide (k = n) := by
  have : (BitVec.ofNat 8 (2 ^ n)) = BitVec.twoPow 8 n := by
    apply BitVec.eq_of_toNat_eq
    rw [BitVec.toNat_ofNat, BitVec.toNat_twoPow]
  rw [this, BitVec.getLsbD_twoPow]
  by_cases h : n = k
  · subst h; simp [hn]
  · have h' : k ≠ n := fun e => h e.symm
    simp [h, h']

theorem getLsbD_withC (p : Byte) (v : Bool) (k : Nat) :
    (withC p v).getLsbD k = if k = 0 then v else p.getLsbD k := by
  rw [withC, getLsbD_withBits, show (0x01 : Byte) = BitVec.ofNat 8 (2 ^ 0) from rfl, getLsbD_mask 0 (by omega)]
  simp

theorem getLsbD_withZ (p : Byte) (v : Bool) (k : Nat) :
    (withZ p v).getLsbD k = if k = 1 then v else p.getLsbD k := by
  rw [withZ, getLsbD_withBits, show (0x02 : Byte) = BitVec.ofNat 8 (2 ^ 1) from rfl, getLsbD_mask 1 (by omega)]
  simp

theorem getLsbD_withI (p : Byte) (v : Bool) (k : Nat) :
    (withI p v).getLsbD k = if k = 2 then v else p.getLsbD k := by
  rw [withI, getLsbD_withBits, show (0x04 : Byte) = BitVec.ofNat 8 (2 ^ 2) from rfl, getLsbD_mask 2 (by omega)]
  simp

theorem getLsbD_withD (p : Byte) (v : Bool) (k : Nat) :
    (withD p v).getLsbD k = if k = 3 then v else p.getLsbD k := by
  rw [withD, getLsbD_withBits, show (0x08 : Byte) = BitVec.ofNat 8 (2 ^ 3) from rfl, getLsbD_mask 3 (by omega)]
  simp

theorem getLsbD_withV (p : Byte) (v : Bool) (k : Nat) :
    (withV p v).getLsbD k = if k = 6 then v else p.getLsbD k := by
  rw [withV, getLsbD_withBits, show (0x40 : Byte) = BitVec.ofNat 8 (2 ^ 6) from rfl, getLsbD_mask 6 (by omega)]
  simp

theorem getLsbD_withN (p : Byte) (v : Bool) (k : Nat) :
    (withN p v).getLsbD k = if k = 7 then v else p.getLsbD k := by
  rw [withN, getLsbD_withBits, show (0x80 : Byte) = BitVec.ofNat 8 (2 ^ 7) from rfl, getLsbD_mask 7 (by omega)]
  simp

/-! ### Each flag after each replacement -/

@[simp] theorem flagC_withC (p : Byte) (v : Bool) : flagC (withC p v) = v := by
  rw [flagC, getLsbD_withC]; rfl
@[simp] theorem flagZ_withC (p : Byte) (v : Bool) : flagZ (withC p v) = flagZ p := by
  rw [flagZ, getLsbD_withC]; rfl
@[simp] theorem flagI_withC (p : Byte) (v : Bool) : flagI (withC p v) = flagI p := by
  rw [flagI, getLsbD_withC]; rfl
@[simp] theorem flagD_withC (p : Byte) (v : Bool) : flagD (withC p v) = flagD p := by
  rw [flagD, getLsbD_withC]; rfl
@[simp] theorem flagB_withC (p : Byte) (v : Bool) : flagB (withC p v) = flagB p := by
  rw [flagB, getLsbD_withC]; rfl
@[simp] theorem flagU_withC (p : Byte) (v : Bool) : flagU (withC p v) = flagU p := by
  rw [flagU, getLsbD_withC]; rfl
@[simp] theorem flagV_withC (p : Byte) (v : Bool) : flagV (withC p v) = flagV p := by
  rw [flagV, getLsbD_withC]; rfl
@[simp] theorem flagN_withC (p : Byte) (v : Bool) : flagN (withC p v) = flagN p := by
  rw [flagN, getLsbD_withC]; rfl

@[simp] theorem flagC_withZ (p : Byte) (v : Bool) : flagC (withZ p v) = flagC p := by
  rw [flagC, getLsbD_withZ]; rfl
@[simp] theorem flagZ_withZ (p : Byte) (v : Bool) : flagZ (withZ p v) = v := by
  rw [flagZ, getLsbD_withZ]; rfl
@[simp] theorem flagI_withZ (p : Byte) (v : Bool) : flagI (withZ p v) = flagI p := by
  rw [flagI, getLsbD_withZ]; rfl
@[simp] theorem flagD_withZ (p : Byte) (v : Bool) : flagD (withZ p v) = flagD p := by
  rw [flagD, getLsbD_withZ]; rfl
@[simp] theorem flagB_withZ (p : Byte) (v : Bool) : flagB (withZ p v) = flagB p := by
  rw [flagB, getLsbD_withZ]; rfl
@[simp] theorem flagU_withZ (p : Byte) (v : Bool) : flagU (withZ p v) = flagU p := by
  rw [flagU, getLsbD_withZ]; rfl
@[simp] theorem flagV_withZ (p : Byte) (v : Bool) : flagV (withZ p v) = flagV p := by
  rw [flagV, getLsbD_withZ]; rfl
@[simp] theorem flagN_withZ (p : Byte) (v : Bool) : flagN (withZ p v) = flagN p := by
  rw [flagN, getLsbD_withZ]; rfl

@[simp] theorem flagC_withI (p : Byte) (v : Bool) : flagC (withI p v) = flagC p := by
  rw [flagC, getLsbD_withI]; rfl
@[simp] theorem flagZ_withI (p : Byte) (v : Bool) : flagZ (withI p v) = flagZ p := by
  rw [flagZ, getLsbD_withI]; rfl
@[simp] theorem flagI_withI (p : Byte) (v : Bool) : flagI (withI p v) = v := by
  rw [flagI, getLsbD_withI]; rfl
@[simp] theorem flagD_withI (p : Byte) (v : Bool) : flagD (withI p v) = flagD p := by
  rw [flagD, getLsbD_withI]; rfl
@[simp] theorem flagB_withI (p : Byte) (v : Bool) : flagB (withI p v) = flagB p := by
  rw [flagB, getLsbD_withI]; rfl
@[simp] theorem flagU_withI (p : Byte) (v : Bool) : flagU (withI p v) = flagU p := by
  rw [flagU, getLsbD_withI]; rfl
@[simp] theorem flagV_withI (p : Byte) (v : Bool) : flagV (withI p v) = flagV p := by
  rw [flagV, getLsbD_withI]; rfl
@[simp] theorem flagN_withI (p : Byte) (v : Bool) : flagN (withI p v) = flagN p := by
  rw [flagN, getLsbD_withI]; rfl

@[simp] theorem flagC_withD (p : Byte) (v : Bool) : flagC (withD p v) = flagC p := by
  rw [flagC, getLsbD_withD]; rfl
@[simp] theorem flagZ_withD (p : Byte) (v : Bool) : flagZ (withD p v) = flagZ p := by
  rw [flagZ, getLsbD_withD]; rfl
@[simp] theorem flagI_withD (p : Byte) (v : Bool) : flagI (withD p v) = flagI p := by
  rw [flagI, getLsbD_withD]; rfl
@[simp] theorem flagD_withD (p : Byte) (v : Bool) : flagD (withD p v) = v := by
  rw [flagD, getLsbD_withD]; rfl
@[simp] theorem flagB_withD (p : Byte) (v : Bool) : flagB (withD p v) = flagB p := by
  rw [flagB, getLsbD_withD]; rfl
@[simp] theorem flagU_withD (p : Byte) (v : Bool) : flagU (withD p v) = flagU p := by
  rw [flagU, getLsbD_withD]; rfl
@[simp] theorem flagV_withD (p : Byte) (v : Bool) : flagV (withD p v) = flagV p := by
  rw [flagV, getLsbD_withD]; rfl
@[simp] theorem flagN_withD (p : Byte) (v : Bool) : flagN (withD p v) = flagN p := by
  rw [flagN, getLsbD_withD]; rfl

@[simp] theorem flagC_withV (p : Byte) (v : Bool) : flagC (withV p v) = flagC p := by
  rw [flagC, getLsbD_withV]; rfl
@[simp] theorem flagZ_withV (p : Byte) (v : Bool) : flagZ (withV p v) = flagZ p := by
  rw [flagZ, getLsbD_withV]; rfl
@[simp] theorem flagI_withV (p : Byte) (v : Bool) : flagI (withV p v) = flagI p := by
  rw [flagI, getLsbD_withV]; rfl
@[simp] theorem flagD_withV (p : Byte) (v : Bool) : flagD (withV p v) = flagD p := by
  rw [flagD, getLsbD_withV]; rfl
@[simp] theorem flagB_withV (p : Byte) (v : Bool) : flagB (withV p v) = flagB p := by
  rw [flagB, getLsbD_withV]; rfl
@[simp] theorem flagU_withV (p : Byte) (v : Bool) : flagU (withV p v) = flagU p := by
  rw [flagU, getLsbD_withV]; rfl
@[simp] theorem flagV_withV (p : Byte) (v : Bool) : flagV (withV p v) = v := by
  rw [flagV, getLsbD_withV]; rfl
@[simp] theorem flagN_withV (p : Byte) (v : Bool) : flagN (withV p v) = flagN p := by
  rw [flagN, getLsbD_withV]; rfl

@[simp] theorem flagC_withN (p : Byte) (v : Bool) : flagC (withN p v) = flagC p := by
  rw [flagC, getLsbD_withN]; rfl
@[simp] theorem flagZ_withN (p : Byte) (v : Bool) : flagZ (withN p v) = flagZ p := by
  rw [flagZ, getLsbD_withN]; rfl
@[simp] theorem flagI_withN (p : Byte) (v : Bool) : flagI (withN p v) = flagI p := by
  rw [flagI, getLsbD_withN]; rfl
@[simp] theorem flagD_withN (p : Byte) (v : Bool) : flagD (withN p v) = flagD p := by
  rw [flagD, getLsbD_withN]; rfl
@[simp] theorem flagB_withN (p : Byte) (v : Bool) : flagB (withN p v) = flagB p := by
  rw [flagB, getLsbD_withN]; rfl
@[simp] theorem flagU_withN (p : Byte) (v : Bool) : flagU (withN p v) = flagU p := by
  rw [flagU, getLsbD_withN]; rfl
@[simp] theorem flagV_withN (p : Byte) (v : Bool) : flagV (withN p v) = flagV p := by
  rw [flagV, getLsbD_withN]; rfl
@[simp] theorem flagN_withN (p : Byte) (v : Bool) : flagN (withN p v) = v := by
  rw [flagN, getLsbD_withN]; rfl

/-! ### The shared flag computations -/

/-- SetZN bit by bit. -/
theorem getLsbD_znFlags (p v : Byte) (k : Nat) :
    (znFlags p v).getLsbD k = if k = 7 then v.getLsbD 7 else if k = 1 then v == 0 else p.getLsbD k := by
  rw [znFlags, getLsbD_withN, getLsbD_withZ]

@[simp] theorem flagZ_znFlags (p v : Byte) : flagZ (znFlags p v) = (v == 0) := by
  rw [flagZ, getLsbD_znFlags]; rfl

@[simp] theorem flagN_znFlags (p v : Byte) : flagN (znFlags p v) = v.getLsbD 7 := by
  rw [flagN, getLsbD_znFlags]; rfl

@[simp] theorem flagC_znFlags (p v : Byte) : flagC (znFlags p v) = flagC p := by
  rw [flagC, getLsbD_znFlags]; rfl

@[simp] theorem flagI_znFlags (p v : Byte) : flagI (znFlags p v) = flagI p := by
  rw [flagI, getLsbD_znFlags]; rfl

@[simp] theorem flagD_znFlags (p v : Byte) : flagD (znFlags p v) = flagD p := by
  rw [flagD, getLsbD_znFlags]; rfl

@[simp] theorem flagB_znFlags (p v : Byte) : flagB (znFlags p v) = flagB p := by
  rw [flagB, getLsbD_znFlags]; rfl

@[simp] theorem flagU_znFlags (p v : Byte) : flagU (znFlags p v) = flagU p := by
  rw [flagU, getLsbD_znFlags]; rfl

@[simp] theorem flagV_znFlags (p v : Byte) : flagV (znFlags p v) = flagV p := by
  rw [flagV, getLsbD_znFlags]; rfl

/-- A shift's flags bit by bit. -/
theorem getLsbD_shiftFlags (p : Byte) (c : Bool) (res : Byte) (k : Nat) :
    (shiftFlags p c res).getLsbD k =
      if k = 7 then res.getLsbD 7 else if k = 1 then res == 0 else if k = 0 then c else p.getLsbD k := by
  rw [shiftFlags, getLsbD_znFlags, getLsbD_withC]

/-- Compare's flags bit by bit. -/
theorem getLsbD_compareFlags (p r m : Byte) (k : Nat) :
    (compareFlags p r m).getLsbD k =
      if k = 7 then (BitVec.ofInt 8 ((r.toNat : Int) - (m.toNat : Int))).getLsbD 7
      else if k = 1 then BitVec.ofInt 8 ((r.toNat : Int) - (m.toNat : Int)) == 0
      else if k = 0 then decide (r.toNat ≥ m.toNat) else p.getLsbD k := by
  rw [compareFlags, getLsbD_znFlags, getLsbD_withC]

/-- BIT's flags bit by bit. -/
theorem getLsbD_bitFlags (p a m : Byte) (k : Nat) :
    (bitFlags p a m).getLsbD k =
      if k = 6 then m.getLsbD 6 else if k = 7 then m.getLsbD 7
      else if k = 1 then (a &&& m) == 0 else p.getLsbD k := by
  rw [bitFlags, getLsbD_withV, getLsbD_withN, getLsbD_withZ]

/-- Which bits ADC's flags leave alone. -/
theorem getLsbD_adcFlags_other (p a m : Byte) {k : Nat} (h : k ∉ [0, 1, 6, 7]) :
    (adcFlags p a m).getLsbD k = p.getLsbD k := by
  simp only [List.mem_cons, List.not_mem_nil, or_false, not_or] at h
  simp only [adcFlags, getLsbD_znFlags, getLsbD_withV, getLsbD_withC, h, if_false]

/-- Which bits SBC's flags leave alone. -/
theorem getLsbD_sbcFlags_other (p a m : Byte) {k : Nat} (h : k ∉ [0, 1, 6, 7]) :
    (sbcFlags p a m).getLsbD k = p.getLsbD k := by
  simp only [List.mem_cons, List.not_mem_nil, or_false, not_or] at h
  simp only [sbcFlags, getLsbD_znFlags, getLsbD_withV, getLsbD_withC, h, if_false]

/-- The mask of PLP and RTI bit by bit: bit 4 clear, bit 5 set, the rest pulled. -/
theorem getLsbD_pulledStatus (v : Byte) (k : Nat) :
    (pulledStatus v).getLsbD k = if k = 4 then false else if k = 5 then true else v.getLsbD k := by
  by_cases hk : k < 8
  · have : ∀ k < 8, (pulledStatus v).getLsbD k =
        if k = 4 then false else if k = 5 then true else v.getLsbD k := by
      intro k hk
      have hc : k = 0 ∨ k = 1 ∨ k = 2 ∨ k = 3 ∨ k = 4 ∨ k = 5 ∨ k = 6 ∨ k = 7 := by omega
      rcases hc with rfl | rfl | rfl | rfl | rfl | rfl | rfl | rfl <;> simp [pulledStatus]
    exact this k hk
  · have h8 : 8 ≤ k := by omega
    rw [BitVec.getLsbD_of_ge _ k h8, BitVec.getLsbD_of_ge v k h8]
    have h4 : k ≠ 4 := by omega
    have h5 : k ≠ 5 := by omega
    simp [h4, h5]

@[simp] theorem flagC_pulledStatus (v : Byte) : flagC (pulledStatus v) = flagC v := by
  rw [flagC, getLsbD_pulledStatus]; rfl

@[simp] theorem flagZ_pulledStatus (v : Byte) : flagZ (pulledStatus v) = flagZ v := by
  rw [flagZ, getLsbD_pulledStatus]; rfl

@[simp] theorem flagI_pulledStatus (v : Byte) : flagI (pulledStatus v) = flagI v := by
  rw [flagI, getLsbD_pulledStatus]; rfl

@[simp] theorem flagD_pulledStatus (v : Byte) : flagD (pulledStatus v) = flagD v := by
  rw [flagD, getLsbD_pulledStatus]; rfl

@[simp] theorem flagB_pulledStatus (v : Byte) : flagB (pulledStatus v) = false := by
  rw [flagB, getLsbD_pulledStatus]; rfl

@[simp] theorem flagU_pulledStatus (v : Byte) : flagU (pulledStatus v) = true := by
  rw [flagU, getLsbD_pulledStatus]; rfl

@[simp] theorem flagV_pulledStatus (v : Byte) : flagV (pulledStatus v) = flagV v := by
  rw [flagV, getLsbD_pulledStatus]; rfl

@[simp] theorem flagN_pulledStatus (v : Byte) : flagN (pulledStatus v) = flagN v := by
  rw [flagN, getLsbD_pulledStatus]; rfl

/-- Bit 7 of a byte is its sign bit. -/
theorem getLsbD_seven (v : Byte) : v.getLsbD 7 = decide (128 ≤ v.toNat) := by
  have := BitVec.msb_eq_decide v
  rw [BitVec.msb_eq_getLsbD_last] at this
  simpa using this

end Sys2Proof.Machine
end

