-- ==== Sys2Proof/Laws/Legal.lean ====
section
/-! SUPPORT. Every operation on the stores of the machine keeps them in canonical form and within their size, and the
Mapper's own state legal. -/

namespace Sys2Proof.Machine

/-- The serial protocol keeps MM.count at most 4 (20_memory.md R68). -/
theorem Mmc1.serialStore_count (m : Mmc1) (a : Word) (v : Byte) (h : m.count.toNat ≤ 4) :
    (m.serialStore a v).count.toNat ≤ 4 := by
  unfold Mmc1.serialStore
  split
  · simp
  · split
    · simp
    · rename_i hne
      have hne' : (m.count + 1).toNat ≠ 5 := fun e => hne (BitVec.eq_of_toNat_eq e)
      rw [BitVec.toNat_add] at hne' ⊢
      have h1 : (1 : BitVec 3).toNat = 1 := rfl
      omega

/-- The serial protocol leaves the CHR-RAM alone. -/
theorem Mmc1.serialStore_chrRam (m : Mmc1) (a : Word) (v : Byte) : (m.serialStore a v).chrRam = m.chrRam := by
  unfold Mmc1.serialStore Mmc1.loadRegister
  (repeat' split) <;> rfl

/-- A store to the Mapper's PRG port, at an address of its range, keeps its state legal. -/
theorem Mapper.legal_prgStore (mp : Mapper) (a : Word) (v : Byte) (ha : 0x6000 ≤ a.toNat) (h : mp.legal = true) :
    (mp.prgStore a v).legal = true := by
  cases mp with
  | nrom => rfl
  | mmc1 m =>
    simp only [Mapper.prgStore]
    split
    · exact h
    · simp only [Mapper.legal, Bool.and_eq_true, decide_eq_true_eq, Mmc1.serialStore_chrRam] at h ⊢
      exact ⟨⟨Mmc1.serialStore_count m a v h.1.1, h.1.2⟩, h.2⟩
  | test scratch =>
    simp only [Mapper.prgStore]
    split
    · rename_i hlt
      simp only [Mapper.legal, Bool.and_eq_true] at h ⊢
      exact ⟨Memory.wf_write _ v h.1, Memory.within_write v h.2 (by unfold scratchIndex; omega)⟩
    · exact h

/-- The variant never changes (20_memory.md R62). -/
@[simp] theorem Mapper.identify_prgStore (mp : Mapper) (a : Word) (v : Byte) :
    (mp.prgStore a v).identify = mp.identify := by
  cases mp <;> simp only [Mapper.prgStore] <;> (try split) <;> rfl

/-- A store to the CHR port changes nothing, or writes one byte of the CHR-RAM of a running machine whose image has no
CHR units (20_memory.md R72, 10_state.md R33). -/
theorem State.chrStore_cases (s : State) (c : BitVec 13) (v : Byte) :
    s.chrStore c v = s ∨
    ∃ m, s.status = .running ∧ s.mapper = .mmc1 m ∧ s.image.chrUnits = 0 ∧
      s.chrStore c v = { s with mapper := .mmc1 { m with chrRam := Memory.write m.chrRam c.toNat v } } := by
  unfold State.chrStore
  split
  · rename_i m hs hm
    split
    · exact .inr ⟨m, hs, hm, ‹_›, rfl⟩
    · exact .inl rfl
  all_goals exact .inl rfl

/-- A store to the CHR port keeps the Mapper's state legal. -/
theorem State.legal_chrStore (s : State) (c : BitVec 13) (v : Byte) (h : s.mapper.legal = true) :
    (s.chrStore c v).mapper.legal = true := by
  rcases s.chrStore_cases c v with e | ⟨m, _, hm, _, e⟩ <;> rw [e]
  · exact h
  · rw [hm] at h
    simp only [Mapper.legal, Bool.and_eq_true] at h ⊢
    exact ⟨⟨h.1.1, Memory.wf_write _ v h.1.2⟩, Memory.within_write v h.2 (by have := c.isLt; omega)⟩

/-- RAM canonical and within its size. -/
def State.ramLegal (s : State) : Bool := Memory.wf s.ram && Memory.within 2048 s.ram

/-- A bus store keeps RAM and the Mapper legal. -/
theorem State.legal_busStore (s : State) (a : Word) (v : Byte) (hr : s.ramLegal = true)
    (hm : s.mapper.legal = true) :
    (s.busStore a v).ramLegal = true ∧ (s.busStore a v).mapper.legal = true ∧
      (s.busStore a v).mapper.identify = s.mapper.identify := by
  simp only [State.ramLegal, Bool.and_eq_true] at hr ⊢
  rcases State.busStore_cases s a v with ⟨_, e⟩ | ⟨_, _, e⟩ | ⟨_, _, e⟩ | ⟨ha, e⟩ <;> rw [e]
  · exact ⟨⟨Memory.wf_write _ v hr.1, Memory.within_write v hr.2 (ramIndex_lt a)⟩, hm, rfl⟩
  · exact ⟨hr, hm, rfl⟩
  · exact ⟨hr, hm, rfl⟩
  · exact ⟨hr, Mapper.legal_prgStore _ a v ha hm, Mapper.identify_prgStore _ a v⟩

/-- A CPU store, the DMA burst included, keeps RAM and the Mapper legal. -/
theorem State.legal_memWrite (s : State) (a : Word) (v : Byte) (hr : s.ramLegal = true)
    (hm : s.mapper.legal = true) :
    (s.memWrite a v).ramLegal = true ∧ (s.memWrite a v).mapper.legal = true ∧
      (s.memWrite a v).mapper.identify = s.mapper.identify := by
  rcases State.memWrite_cases s a v with ⟨_, e⟩ | ⟨_, e⟩ <;> rw [e]
  · refine ⟨?_, ?_, ?_⟩
    · simpa only [State.ramLegal, State.dmaBytes_ram] using hr
    · rw [State.dmaBytes_mapper]; exact hm
    · rw [State.dmaBytes_mapper]
  · exact State.legal_busStore s a v hr hm

end Sys2Proof.Machine
end

