-- ==== Sys2Proof/Laws/PerInstr.lean ====
section
/-! SUPPORT. A statement made for every instruction: its encoding has as many bytes as its mode says. -/

namespace Sys2Proof.Laws.EncodingLength

/-- The encoding of a well-formed instruction is as long as 30_encoding.md R90 and R113 say. -/
def Statement (i : Instr) : Prop := ∀ nops, i.wf nops = true → (encode i).length = i.length

theorem lda (m : Operand) : Statement (.lda m) := by
  intro nops h
  cases m <;> first | rfl | exact absurd (show false = true from h) Bool.false_ne_true

theorem ldx (m : Operand) : Statement (.ldx m) := by
  intro nops h
  cases m <;> first | rfl | exact absurd (show false = true from h) Bool.false_ne_true

theorem ldy (m : Operand) : Statement (.ldy m) := by
  intro nops h
  cases m <;> first | rfl | exact absurd (show false = true from h) Bool.false_ne_true

theorem sta (m : Operand) : Statement (.sta m) := by
  intro nops h
  cases m <;> first | rfl | exact absurd (show false = true from h) Bool.false_ne_true

theorem stx (m : Operand) : Statement (.stx m) := by
  intro nops h
  cases m <;> first | rfl | exact absurd (show false = true from h) Bool.false_ne_true

theorem sty (m : Operand) : Statement (.sty m) := by
  intro nops h
  cases m <;> first | rfl | exact absurd (show false = true from h) Bool.false_ne_true

theorem tax : Statement .tax := fun _ _ => rfl

theorem tay : Statement .tay := fun _ _ => rfl

theorem txa : Statement .txa := fun _ _ => rfl

theorem tya : Statement .tya := fun _ _ => rfl

theorem tsx : Statement .tsx := fun _ _ => rfl

theorem txs : Statement .txs := fun _ _ => rfl

theorem adc (m : Operand) : Statement (.adc m) := by
  intro nops h
  cases m <;> first | rfl | exact absurd (show false = true from h) Bool.false_ne_true

theorem sbc (m : Operand) : Statement (.sbc m) := by
  intro nops h
  cases m <;> first | rfl | exact absurd (show false = true from h) Bool.false_ne_true

theorem and (m : Operand) : Statement (.and m) := by
  intro nops h
  cases m <;> first | rfl | exact absurd (show false = true from h) Bool.false_ne_true

theorem ora (m : Operand) : Statement (.ora m) := by
  intro nops h
  cases m <;> first | rfl | exact absurd (show false = true from h) Bool.false_ne_true

theorem eor (m : Operand) : Statement (.eor m) := by
  intro nops h
  cases m <;> first | rfl | exact absurd (show false = true from h) Bool.false_ne_true

theorem cmp (m : Operand) : Statement (.cmp m) := by
  intro nops h
  cases m <;> first | rfl | exact absurd (show false = true from h) Bool.false_ne_true

theorem cpx (m : Operand) : Statement (.cpx m) := by
  intro nops h
  cases m <;> first | rfl | exact absurd (show false = true from h) Bool.false_ne_true

theorem cpy (m : Operand) : Statement (.cpy m) := by
  intro nops h
  cases m <;> first | rfl | exact absurd (show false = true from h) Bool.false_ne_true

theorem bit (m : Operand) : Statement (.bit m) := by
  intro nops h
  cases m <;> first | rfl | exact absurd (show false = true from h) Bool.false_ne_true

theorem inc (m : Operand) : Statement (.inc m) := by
  intro nops h
  cases m <;> first | rfl | exact absurd (show false = true from h) Bool.false_ne_true

theorem dec (m : Operand) : Statement (.dec m) := by
  intro nops h
  cases m <;> first | rfl | exact absurd (show false = true from h) Bool.false_ne_true

theorem inx : Statement .inx := fun _ _ => rfl

theorem iny : Statement .iny := fun _ _ => rfl

theorem dex : Statement .dex := fun _ _ => rfl

theorem dey : Statement .dey := fun _ _ => rfl

theorem asl (m : Operand) : Statement (.asl m) := by
  intro nops h
  cases m <;> first | rfl | exact absurd (show false = true from h) Bool.false_ne_true

theorem lsr (m : Operand) : Statement (.lsr m) := by
  intro nops h
  cases m <;> first | rfl | exact absurd (show false = true from h) Bool.false_ne_true

theorem rol (m : Operand) : Statement (.rol m) := by
  intro nops h
  cases m <;> first | rfl | exact absurd (show false = true from h) Bool.false_ne_true

theorem ror (m : Operand) : Statement (.ror m) := by
  intro nops h
  cases m <;> first | rfl | exact absurd (show false = true from h) Bool.false_ne_true

theorem pha : Statement .pha := fun _ _ => rfl

theorem php : Statement .php := fun _ _ => rfl

theorem pla : Statement .pla := fun _ _ => rfl

theorem plp : Statement .plp := fun _ _ => rfl

theorem clc : Statement .clc := fun _ _ => rfl

theorem sec : Statement .sec := fun _ _ => rfl

theorem cli : Statement .cli := fun _ _ => rfl

theorem sei : Statement .sei := fun _ _ => rfl

theorem cld : Statement .cld := fun _ _ => rfl

theorem sed : Statement .sed := fun _ _ => rfl

theorem clv : Statement .clv := fun _ _ => rfl

theorem jmpAbs (target : Word) : Statement (.jmpAbs target) := fun _ _ => rfl

theorem jmpInd (ptr : Word) : Statement (.jmpInd ptr) := fun _ _ => rfl

theorem jsr (target : Word) : Statement (.jsr target) := fun _ _ => rfl

theorem rts : Statement .rts := fun _ _ => rfl

theorem bpl (d : Byte) : Statement (.bpl d) := fun _ _ => rfl

theorem bmi (d : Byte) : Statement (.bmi d) := fun _ _ => rfl

theorem bvc (d : Byte) : Statement (.bvc d) := fun _ _ => rfl

theorem bvs (d : Byte) : Statement (.bvs d) := fun _ _ => rfl

theorem bcc (d : Byte) : Statement (.bcc d) := fun _ _ => rfl

theorem bcs (d : Byte) : Statement (.bcs d) := fun _ _ => rfl

theorem bne (d : Byte) : Statement (.bne d) := fun _ _ => rfl

theorem beq (d : Byte) : Statement (.beq d) := fun _ _ => rfl

theorem brk : Statement .brk := fun _ _ => rfl

theorem rti : Statement .rti := fun _ _ => rfl

theorem nop : Statement .nop := fun _ _ => rfl

theorem unofficialNop (op : Byte) (operand : NopOperand) : Statement (.unofficialNop op operand) := by
  intro nops _
  cases operand <;> rfl

theorem illegal (op : Byte) : Statement (.illegal op) := fun _ _ => rfl

end Sys2Proof.Laws.EncodingLength
end

