-- ==== Sys2Proof/Laws/Step.lean ====
section
/-! SUPPORT. What one step can be, and what stands around an instruction. -/

namespace Sys2Proof.Machine

/-- Every step is one of three: the fault of a Halted machine, a pending NMI, or the instruction at PC, the last two
after the boundary. -/
theorem step_cases (s : State) :
    (∃ why, s.status = .halted why ∧ step s = .fault (.halted why)) ∨
    (s.status = .running ∧ s.boundary.nmiDue = true ∧ step s = .next s.boundary.takeNmi) ∨
    (s.status = .running ∧ s.boundary.nmiDue = false ∧ step s = exec s.boundary.fetchInstr s.boundary) := by
  unfold step
  split
  · exact .inl ⟨_, ‹_›, rfl⟩
  · cases h : s.boundary.nmiDue
    · exact .inr (.inr ⟨‹_›, rfl, by simp only [h]; rfl⟩)
    · exact .inr (.inl ⟨‹_›, rfl, by simp only [h]; rfl⟩)

/-- With nothing left to happen outside, a boundary changes nothing. -/
theorem State.boundary_nil {s : State} (h : s.outside = []) : s.boundary = s := by
  unfold State.boundary
  rw [h]

/-- All a boundary can change: the three readable latches, the NMI latch and the list of what is to come. -/
theorem State.boundary_eq (s : State) :
    s.boundary = { s with ports := s.boundary.ports, nmiPending := s.boundary.nmiPending, outside := s.outside.tail } := by
  cases h : s.outside with
  | nil => rw [State.boundary_nil h]; cases s; simp_all
  | cons b rest => unfold State.boundary; rw [h]; rfl

/-- The instruction fetched is decoded from the three bytes at PC. -/
theorem State.fetchInstr_eq (s : State) :
    s.fetchInstr = decodeBytes s.params.nopSet (s.memRead s.pc) (s.memRead (s.pc + 1)) (s.memRead (s.pc + 1 + 1)) := by
  simp only [State.fetchInstr, State.fetch8, State.fetch16, loByte_wordOf, hiByte_wordOf]
  rfl

end Sys2Proof.Machine
end

