-- ==== Sys2Proof/Tests/Slice0.lean ====
section
/-! SUPPORT. Small tests with expected results from spec/, the refusals of WellFormed, the decoding of words written out
from the opcode map, and a witness for the hypotheses of each statement. -/

namespace Sys2Proof.Tests

open Sys2Proof.Machine

/-! ### Machines to test on -/

/-- The "default start state" of 95_test_vectors.md with the code at 0x8000 (PRG offset 0). -/
def rom (code : List Byte) : State :=
  { State.reset with
    pc := 0x8000
    image := { Image.blank with prg := Memory.writeList [] 0 code }
    params := { Config.defaultParams with videoAgent := .closed } }

/-- The reset state with code at 0x0200 of RAM and PC there. -/
def inRam (code : List Byte) : State :=
  { State.reset with pc := 0x0200, ram := Memory.writeList [] 0x200 code }

/-- An MMC1-class machine with eight 16 KB banks, bank k holding 0xB0 + k in its first and last byte, no CHR. -/
def mmc1Machine : State :=
  { State.reset with
    image :=
      { Image.blank with
        prgUnits := 8
        chrUnits := 0
        flags6 := 0x10
        prg :=
          [(0x0000, 0xB0), (0x3FFF, 0xB0), (0x4000, 0xB1), (0x7FFF, 0xB1), (0x8000, 0xB2), (0xBFFF, 0xB2)] ++
          [(0xC000, 0xB3), (0xFFFF, 0xB3), (0x10000, 0xB4), (0x13FFF, 0xB4), (0x14000, 0xB5), (0x17FFF, 0xB5)] ++
          [(0x18000, 0xB6), (0x1BFFF, 0xB6), (0x1C000, 0xB7), (0x1FFFF, 0xB7)] }
    mapper := .mmc1 (Mmc1.constructed []) }

/-- A machine with the test variant. -/
def testMachine : State := { State.reset with mapper := .test [] }

/-- A step of `s` ends in A, X, Y, S, P as in `regs`, PC as in `pc` and the listed RAM bytes. -/
def stepGives (s : State) (regs : List Byte) (pc : Word) (ram : List (Nat × Byte)) : Bool :=
  match step s with
  | .next t =>
    [t.a, t.x, t.y, t.sp, t.p] == regs && t.pc == pc && ram.all fun c => Memory.read t.ram c.1 == c.2
  | _ => false

/-- The bytes hold exactly the instruction `i`. -/
def reads (bytes : List Byte) (i : Instr) : Bool :=
  match decode Config.defaultNopSet bytes with
  | .ok (j, []) => j = i
  | _ => false

/-! ### WellFormed refuses an ill-formed term of each kind (30_encoding.md R108, R111, R112) -/

theorem test_wf_refuses_missing_modes :
    ([
      Instr.lda .acc, .ldx (.zpx 0), .ldy (.zpy 0), .sta (.imm 0), .stx (.imm 0), .sty (.imm 0), .adc .acc,
      .sbc (.zpy 0), .and .acc, .ora (.zpy 0), .eor .acc, .cmp (.zpy 0), .cpx (.zpx 0), .cpy (.abx 0),
      .bit (.imm 0), .inc .acc, .dec (.imm 0), .asl (.imm 0), .lsr (.aby 0), .rol (.izx 0), .ror (.izy 0)] : List Instr).all (fun i => !i.wf Config.defaultNopSet) = true := by decide

/-- An official opcode is no unofficial no-op, not even under a set that lists it. -/
theorem test_wf_refuses_official_nop : (Instr.unofficialNop 0xEA .none).wf [(0xEA, .one)] = false := by decide

theorem test_wf_refuses_wrong_nop_length :
    (Instr.unofficialNop 0x1C (.byte 0)).wf Config.defaultNopSet = false := by decide

theorem test_wf_refuses_nop_outside_set : (Instr.unofficialNop 0x1A .none).wf [] = false := by decide

theorem test_wf_refuses_official_illegal : (Instr.illegal 0xA9).wf Config.defaultNopSet = false := by decide

theorem test_wf_refuses_member_as_illegal : (Instr.illegal 0x80).wf Config.defaultNopSet = false := by decide

theorem test_nop_set_refuses_official : NopSet.admissible [(0xEA, .one)] = false := by decide

theorem test_nop_set_refuses_two_lengths :
    NopSet.admissible [(0x03, .one), (0x03, .two)] = false ∧ NopSet.admissible [(0x03, .two)] = true := by decide

theorem test_nop_set_refuses_other_length : NopSet.admissible [(0x1A, .two)] = false := by decide

/-- 30_encoding.md R110 and R112: 151 official opcodes, 27 no-ops, none of them official. -/
theorem test_opcode_counts :
    officialOpcodes.length = 151 ∧ Config.defaultNopSet.length = 27 ∧
      NopSet.admissible Config.defaultNopSet = true := ⟨rfl, rfl, by decide⟩

/-! ### Decoding: bytes written out from 30_encoding.md R108 and R112, operand bytes 0x34 then 0x12 -/

theorem test_decode_loads :
    (reads [0xA9, 0x34] (.lda (.imm 0x34)) && reads [0xA5, 0x34] (.lda (.zp 0x34)) &&
     reads [0xB5, 0x34] (.lda (.zpx 0x34)) && reads [0xAD, 0x34, 0x12] (.lda (.abs 0x1234)) &&
     reads [0xBD, 0x34, 0x12] (.lda (.abx 0x1234)) && reads [0xB9, 0x34, 0x12] (.lda (.aby 0x1234)) &&
     reads [0xA1, 0x34] (.lda (.izx 0x34)) && reads [0xB1, 0x34] (.lda (.izy 0x34)) &&
     reads [0xA2, 0x34] (.ldx (.imm 0x34)) && reads [0xA6, 0x34] (.ldx (.zp 0x34)) &&
     reads [0xB6, 0x34] (.ldx (.zpy 0x34)) && reads [0xAE, 0x34, 0x12] (.ldx (.abs 0x1234)) &&
     reads [0xBE, 0x34, 0x12] (.ldx (.aby 0x1234)) && reads [0xA0, 0x34] (.ldy (.imm 0x34)) &&
     reads [0xA4, 0x34] (.ldy (.zp 0x34)) && reads [0xB4, 0x34] (.ldy (.zpx 0x34)) &&
     reads [0xAC, 0x34, 0x12] (.ldy (.abs 0x1234)) && reads [0xBC, 0x34, 0x12] (.ldy (.abx 0x1234))) = true := by decide

theorem test_decode_stores :
    (reads [0x85, 0x34] (.sta (.zp 0x34)) && reads [0x95, 0x34] (.sta (.zpx 0x34)) &&
     reads [0x8D, 0x34, 0x12] (.sta (.abs 0x1234)) && reads [0x9D, 0x34, 0x12] (.sta (.abx 0x1234)) &&
     reads [0x99, 0x34, 0x12] (.sta (.aby 0x1234)) && reads [0x81, 0x34] (.sta (.izx 0x34)) &&
     reads [0x91, 0x34] (.sta (.izy 0x34)) && reads [0x86, 0x34] (.stx (.zp 0x34)) &&
     reads [0x96, 0x34] (.stx (.zpy 0x34)) && reads [0x8E, 0x34, 0x12] (.stx (.abs 0x1234)) &&
     reads [0x84, 0x34] (.sty (.zp 0x34)) && reads [0x94, 0x34] (.sty (.zpx 0x34)) &&
     reads [0x8C, 0x34, 0x12] (.sty (.abs 0x1234))) = true := by decide

theorem test_decode_transfers :
    (reads [0xAA] .tax && reads [0xA8] .tay && reads [0x8A] .txa && reads [0x98] .tya && reads [0xBA] .tsx &&
     reads [0x9A] .txs) = true := by decide

theorem test_decode_add_subtract :
    (reads [0x69, 0x34] (.adc (.imm 0x34)) && reads [0x65, 0x34] (.adc (.zp 0x34)) &&
     reads [0x75, 0x34] (.adc (.zpx 0x34)) && reads [0x6D, 0x34, 0x12] (.adc (.abs 0x1234)) &&
     reads [0x7D, 0x34, 0x12] (.adc (.abx 0x1234)) && reads [0x79, 0x34, 0x12] (.adc (.aby 0x1234)) &&
     reads [0x61, 0x34] (.adc (.izx 0x34)) && reads [0x71, 0x34] (.adc (.izy 0x34)) &&
     reads [0xE9, 0x34] (.sbc (.imm 0x34)) && reads [0xE5, 0x34] (.sbc (.zp 0x34)) &&
     reads [0xF5, 0x34] (.sbc (.zpx 0x34)) && reads [0xED, 0x34, 0x12] (.sbc (.abs 0x1234)) &&
     reads [0xFD, 0x34, 0x12] (.sbc (.abx 0x1234)) && reads [0xF9, 0x34, 0x12] (.sbc (.aby 0x1234)) &&
     reads [0xE1, 0x34] (.sbc (.izx 0x34)) && reads [0xF1, 0x34] (.sbc (.izy 0x34))) = true := by decide

theorem test_decode_logic :
    (reads [0x29, 0x34] (.and (.imm 0x34)) && reads [0x25, 0x34] (.and (.zp 0x34)) &&
     reads [0x35, 0x34] (.and (.zpx 0x34)) && reads [0x2D, 0x34, 0x12] (.and (.abs 0x1234)) &&
     reads [0x3D, 0x34, 0x12] (.and (.abx 0x1234)) && reads [0x39, 0x34, 0x12] (.and (.aby 0x1234)) &&
     reads [0x21, 0x34] (.and (.izx 0x34)) && reads [0x31, 0x34] (.and (.izy 0x34)) &&
     reads [0x09, 0x34] (.ora (.imm 0x34)) && reads [0x05, 0x34] (.ora (.zp 0x34)) &&
     reads [0x15, 0x34] (.ora (.zpx 0x34)) && reads [0x0D, 0x34, 0x12] (.ora (.abs 0x1234)) &&
     reads [0x1D, 0x34, 0x12] (.ora (.abx 0x1234)) && reads [0x19, 0x34, 0x12] (.ora (.aby 0x1234)) &&
     reads [0x01, 0x34] (.ora (.izx 0x34)) && reads [0x11, 0x34] (.ora (.izy 0x34)) &&
     reads [0x49, 0x34] (.eor (.imm 0x34)) && reads [0x45, 0x34] (.eor (.zp 0x34)) &&
     reads [0x55, 0x34] (.eor (.zpx 0x34)) && reads [0x4D, 0x34, 0x12] (.eor (.abs 0x1234)) &&
     reads [0x5D, 0x34, 0x12] (.eor (.abx 0x1234)) && reads [0x59, 0x34, 0x12] (.eor (.aby 0x1234)) &&
     reads [0x41, 0x34] (.eor (.izx 0x34)) && reads [0x51, 0x34] (.eor (.izy 0x34))) = true := by decide

theorem test_decode_compare :
    (reads [0xC9, 0x34] (.cmp (.imm 0x34)) && reads [0xC5, 0x34] (.cmp (.zp 0x34)) &&
     reads [0xD5, 0x34] (.cmp (.zpx 0x34)) && reads [0xCD, 0x34, 0x12] (.cmp (.abs 0x1234)) &&
     reads [0xDD, 0x34, 0x12] (.cmp (.abx 0x1234)) && reads [0xD9, 0x34, 0x12] (.cmp (.aby 0x1234)) &&
     reads [0xC1, 0x34] (.cmp (.izx 0x34)) && reads [0xD1, 0x34] (.cmp (.izy 0x34)) &&
     reads [0xE0, 0x34] (.cpx (.imm 0x34)) && reads [0xE4, 0x34] (.cpx (.zp 0x34)) &&
     reads [0xEC, 0x34, 0x12] (.cpx (.abs 0x1234)) && reads [0xC0, 0x34] (.cpy (.imm 0x34)) &&
     reads [0xC4, 0x34] (.cpy (.zp 0x34)) && reads [0xCC, 0x34, 0x12] (.cpy (.abs 0x1234)) &&
     reads [0x24, 0x34] (.bit (.zp 0x34)) && reads [0x2C, 0x34, 0x12] (.bit (.abs 0x1234))) = true := by decide

theorem test_decode_step_by_one :
    (reads [0xE6, 0x34] (.inc (.zp 0x34)) && reads [0xF6, 0x34] (.inc (.zpx 0x34)) &&
     reads [0xEE, 0x34, 0x12] (.inc (.abs 0x1234)) && reads [0xFE, 0x34, 0x12] (.inc (.abx 0x1234)) &&
     reads [0xC6, 0x34] (.dec (.zp 0x34)) && reads [0xD6, 0x34] (.dec (.zpx 0x34)) &&
     reads [0xCE, 0x34, 0x12] (.dec (.abs 0x1234)) && reads [0xDE, 0x34, 0x12] (.dec (.abx 0x1234)) &&
     reads [0xE8] .inx && reads [0xC8] .iny && reads [0xCA] .dex && reads [0x88] .dey) = true := by decide

theorem test_decode_shifts :
    (reads [0x0A] (.asl .acc) && reads [0x06, 0x34] (.asl (.zp 0x34)) &&
     reads [0x16, 0x34] (.asl (.zpx 0x34)) && reads [0x0E, 0x34, 0x12] (.asl (.abs 0x1234)) &&
     reads [0x1E, 0x34, 0x12] (.asl (.abx 0x1234)) && reads [0x4A] (.lsr .acc) &&
     reads [0x46, 0x34] (.lsr (.zp 0x34)) && reads [0x56, 0x34] (.lsr (.zpx 0x34)) &&
     reads [0x4E, 0x34, 0x12] (.lsr (.abs 0x1234)) && reads [0x5E, 0x34, 0x12] (.lsr (.abx 0x1234)) &&
     reads [0x2A] (.rol .acc) && reads [0x26, 0x34] (.rol (.zp 0x34)) &&
     reads [0x36, 0x34] (.rol (.zpx 0x34)) && reads [0x2E, 0x34, 0x12] (.rol (.abs 0x1234)) &&
     reads [0x3E, 0x34, 0x12] (.rol (.abx 0x1234)) && reads [0x6A] (.ror .acc) &&
     reads [0x66, 0x34] (.ror (.zp 0x34)) && reads [0x76, 0x34] (.ror (.zpx 0x34)) &&
     reads [0x6E, 0x34, 0x12] (.ror (.abs 0x1234)) && reads [0x7E, 0x34, 0x12] (.ror (.abx 0x1234))) = true := by decide

theorem test_decode_stack_and_flags :
    (reads [0x48] .pha && reads [0x08] .php && reads [0x68] .pla && reads [0x28] .plp && reads [0x18] .clc &&
     reads [0x38] .sec && reads [0x58] .cli && reads [0x78] .sei && reads [0xD8] .cld && reads [0xF8] .sed &&
     reads [0xB8] .clv) = true := by decide

theorem test_decode_jumps :
    (reads [0x4C, 0x34, 0x12] (.jmpAbs 0x1234) && reads [0x6C, 0x34, 0x12] (.jmpInd 0x1234) &&
     reads [0x20, 0x34, 0x12] (.jsr 0x1234) && reads [0x60] .rts) = true := by decide

theorem test_decode_branches :
    (reads [0x10, 0x34] (.bpl 0x34) && reads [0x30, 0x34] (.bmi 0x34) && reads [0x50, 0x34] (.bvc 0x34) &&
     reads [0x70, 0x34] (.bvs 0x34) && reads [0x90, 0x34] (.bcc 0x34) && reads [0xB0, 0x34] (.bcs 0x34) &&
     reads [0xD0, 0x34] (.bne 0x34) && reads [0xF0, 0x34] (.beq 0x34)) = true := by decide

theorem test_decode_system :
    (reads [0x00] .brk && reads [0x40] .rti && reads [0xEA] .nop) = true := by decide

/-- Every no-op of R112 by length, with its operand bytes. -/
theorem test_decode_unofficial_nops :
    ([0x1A, 0x3A, 0x5A, 0x7A, 0xDA, 0xFA] : List Byte).all (fun op => reads [op] (.unofficialNop op .none)) &&
    ([0x80, 0x82, 0x89, 0xC2, 0xE2, 0x04, 0x44, 0x64, 0x14, 0x34, 0x54, 0x74, 0xD4, 0xF4] : List Byte).all
      (fun op => reads [op, 0x34] (.unofficialNop op (.byte 0x34))) &&
    ([0x0C, 0x1C, 0x3C, 0x5C, 0x7C, 0xDC, 0xFC] : List Byte).all
      (fun op => reads [op, 0x34, 0x12] (.unofficialNop op (.word 0x1234))) = true := by decide

/-- The 78 unimplemented opcodes as 30_encoding.md R111 lists them: no operand byte is taken. -/
theorem test_decode_illegal :
    ([0x03, 0x07, 0x0B, 0x0F] : List Byte).all (fun low =>
      ([0x00, 0x10, 0x20, 0x30, 0x40, 0x50, 0x60, 0x70, 0x80, 0x90, 0xA0, 0xB0, 0xC0, 0xD0, 0xE0, 0xF0] : List Byte).all
        (fun high => reads [high + low] (.illegal (high + low)))) &&
    ([0x02, 0x12, 0x22, 0x32, 0x42, 0x52, 0x62, 0x72, 0x92, 0xB2, 0xD2, 0xF2, 0x9C, 0x9E] : List Byte).all
      (fun op => reads [op] (.illegal op)) = true := by decide

/-- A missing operand byte is refused by name. -/
theorem test_decode_truncated :
    (match decode Config.defaultNopSet [0xAD, 0x34] with | .error (.missingOperand 0xAD) => true | _ => false) = true ∧
    (match decode Config.defaultNopSet [] with | .error .noOpcode => true | _ => false) = true := by decide

/-- `decodeTableWord` numbers the first byte lowest. -/
theorem test_decode_table_word :
    decodeTableWord 24 0x1234AD = some (.lda (.abs 0x1234)) ∧ decodeTableWord 8 0xAD = some (.lda (.abs 0)) := by decide

/-! ### One step: rows of 95_test_vectors.md 2.2 to 2.8 -/

theorem test_step_lda_zpx :
    stepGives { rom [0xB5, 0xF0] with x := 0x20, ram := [(0x010, 0x33), (0x110, 0x44)] }
      [0x33, 0x20, 0x00, 0xFD, 0x24] 0x8002 [] = true := by decide

theorem test_step_lda_izy :
    stepGives { rom [0xB1, 0xFF] with y := 0x04, ram := [(0x000, 0x02), (0x0FF, 0xFE), (0x100, 0x07), (0x302, 0xCD)] }
      [0xCD, 0x00, 0x04, 0xFD, 0xA4] 0x8002 [] = true := by decide

theorem test_step_ldx_zpy :
    stepGives { rom [0xB6, 0xF0] with y := 0x20, ram := [(0x010, 0x33), (0x110, 0x44)] }
      [0x00, 0x33, 0x20, 0xFD, 0x24] 0x8002 [] = true := by decide

theorem test_step_ldy_abs :
    stepGives { rom [] with
        image := { Image.blank with prg := [(0x0000, 0xAC), (0x0001, 0x05), (0x0002, 0xC0), (0x0005, 0x42)] } }
      [0x00, 0x00, 0x42, 0xFD, 0x24] 0x8003 [] = true := by decide

theorem test_step_sta_zpx :
    stepGives { rom [0x95, 0xFF] with a := 0x77, x := 0x02 }
      [0x77, 0x02, 0x00, 0xFD, 0x24] 0x8002 [(0x001, 0x77)] = true := by decide

theorem test_step_sta_izy :
    stepGives { rom [0x91, 0x10] with a := 0xEE, y := 0xFF, ram := [(0x010, 0x01), (0x011, 0x03)] }
      [0xEE, 0x00, 0xFF, 0xFD, 0x24] 0x8002 [(0x400, 0xEE)] = true := by decide

theorem test_step_stx_zpy :
    stepGives { rom [0x96, 0xFF] with x := 0x66, y := 0x01 }
      [0x00, 0x66, 0x01, 0xFD, 0x24] 0x8002 [(0x000, 0x66)] = true := by decide

theorem test_step_sty_zp :
    stepGives { rom [0x84, 0x10] with y := 0x00, p := 0xA4, ram := [(0x010, 0xFF)] }
      [0x00, 0x00, 0x00, 0xFD, 0xA4] 0x8002 [(0x010, 0x00)] = true := by decide

theorem test_step_tax :
    stepGives { rom [0xAA] with a := 0x80 }
      [0x80, 0x80, 0x00, 0xFD, 0xA4] 0x8001 [] = true := by decide

theorem test_step_tay :
    stepGives { rom [0xA8] with a := 0x00, y := 0x05 }
      [0x00, 0x00, 0x00, 0xFD, 0x26] 0x8001 [] = true := by decide

theorem test_step_txa :
    stepGives { rom [0x8A] with a := 0x01, x := 0x00 }
      [0x00, 0x00, 0x00, 0xFD, 0x26] 0x8001 [] = true := by decide

theorem test_step_tya :
    stepGives { rom [0x98] with y := 0x80 }
      [0x80, 0x00, 0x80, 0xFD, 0xA4] 0x8001 [] = true := by decide

theorem test_step_tsx :
    stepGives { rom [0xBA] with x := 0x01, sp := 0x00 }
      [0x00, 0x00, 0x00, 0x00, 0x26] 0x8001 [] = true := by decide

theorem test_step_txs :
    stepGives { rom [0x9A] with x := 0x00, sp := 0xFD, p := 0xA4 }
      [0x00, 0x00, 0x00, 0x00, 0xA4] 0x8001 [] = true := by decide

theorem test_step_adc_imm :
    stepGives { rom [0x69, 0x90] with a := 0xD0, p := 0x24 }
      [0x60, 0x00, 0x00, 0xFD, 0x65] 0x8002 [] = true := by decide

theorem test_step_adc_imm_again :
    stepGives { rom [0x69, 0x01] with a := 0x09, p := 0x2C }
      [0x0A, 0x00, 0x00, 0xFD, 0x2C] 0x8002 [] = true := by decide

theorem test_step_sbc_imm :
    stepGives { rom [0xE9, 0xB0] with a := 0x50, p := 0x25 }
      [0xA0, 0x00, 0x00, 0xFD, 0xE4] 0x8002 [] = true := by decide

theorem test_step_sbc_imm_again :
    stepGives { rom [0xE9, 0x00] with a := 0x00, p := 0x24 }
      [0xFF, 0x00, 0x00, 0xFD, 0xA4] 0x8002 [] = true := by decide

theorem test_step_and_zp :
    stepGives { rom [0x25, 0x10] with a := 0x3C, ram := [(0x010, 0x0F)] }
      [0x0C, 0x00, 0x00, 0xFD, 0x24] 0x8002 [] = true := by decide

theorem test_step_ora_imm :
    stepGives { rom [0x09, 0x00] with a := 0x00, p := 0xA4 }
      [0x00, 0x00, 0x00, 0xFD, 0x26] 0x8002 [] = true := by decide

theorem test_step_eor_izy :
    stepGives { rom [0x51, 0x10] with a := 0xAA, y := 0x01, ram := [(0x010, 0xFF), (0x011, 0x02), (0x300, 0x55)] }
      [0xFF, 0x00, 0x01, 0xFD, 0xA4] 0x8002 [] = true := by decide

theorem test_step_cmp_imm :
    stepGives { rom [0xC9, 0x00] with a := 0x00, p := 0xA4 }
      [0x00, 0x00, 0x00, 0xFD, 0x27] 0x8002 [] = true := by decide

theorem test_step_cmp_imm_again :
    stepGives { rom [0xC9, 0x01] with a := 0xFF }
      [0xFF, 0x00, 0x00, 0xFD, 0xA5] 0x8002 [] = true := by decide

theorem test_step_cpx_zp :
    stepGives { rom [0xE4, 0x10] with x := 0x7F, ram := [(0x010, 0x80)] }
      [0x00, 0x7F, 0x00, 0xFD, 0xA4] 0x8002 [] = true := by decide

theorem test_step_cpy_abs :
    stepGives { rom [0xCC, 0x10, 0x03] with y := 0x40, ram := [(0x310, 0x40)] }
      [0x00, 0x00, 0x40, 0xFD, 0x27] 0x8003 [] = true := by decide

theorem test_step_bit_zp :
    stepGives { rom [0x24, 0x10] with a := 0xFF, p := 0xE6, ram := [(0x010, 0x01)] }
      [0xFF, 0x00, 0x00, 0xFD, 0x24] 0x8002 [] = true := by decide

theorem test_step_bit_abs :
    stepGives { rom [0x2C, 0x10, 0x03] with a := 0x00, ram := [(0x310, 0x80)] }
      [0x00, 0x00, 0x00, 0xFD, 0xA6] 0x8003 [] = true := by decide

theorem test_step_inc_zpx :
    stepGives { rom [0xF6, 0xFF] with x := 0x01, ram := [(0x000, 0xFE), (0x100, 0x11)] }
      [0x00, 0x01, 0x00, 0xFD, 0xA4] 0x8002 [(0x000, 0xFF)] = true := by decide

theorem test_step_inc_abs :
    stepGives { rom [] with
        p := 0x24, image := { Image.blank with prg := [(0x0000, 0xEE), (0x0002, 0x90), (0x1000, 0xEA)] } }
      [0x00, 0x00, 0x00, 0xFD, 0xA4] 0x8003 [] = true := by decide

theorem test_step_dec_zp :
    stepGives { rom [0xC6, 0x10] with ram := [(0x010, 0x01)] }
      [0x00, 0x00, 0x00, 0xFD, 0x26] 0x8002 [(0x010, 0x00)] = true := by decide

theorem test_step_inx :
    stepGives { rom [0xE8] with x := 0x7F }
      [0x00, 0x80, 0x00, 0xFD, 0xA4] 0x8001 [] = true := by decide

theorem test_step_iny :
    stepGives { rom [0xC8] with y := 0xFF }
      [0x00, 0x00, 0x00, 0xFD, 0x26] 0x8001 [] = true := by decide

theorem test_step_dex :
    stepGives { rom [0xCA] with x := 0x00 }
      [0x00, 0xFF, 0x00, 0xFD, 0xA4] 0x8001 [] = true := by decide

theorem test_step_dey :
    stepGives { rom [0x88] with y := 0x01 }
      [0x00, 0x00, 0x00, 0xFD, 0x26] 0x8001 [] = true := by decide

theorem test_step_asl_acc :
    stepGives { rom [0x0A] with a := 0x80 }
      [0x00, 0x00, 0x00, 0xFD, 0x27] 0x8001 [] = true := by decide

theorem test_step_lsr_abx :
    stepGives { rom [0x5E, 0x10, 0x03] with x := 0x01, ram := [(0x311, 0xFE)] }
      [0x00, 0x01, 0x00, 0xFD, 0x24] 0x8003 [(0x311, 0x7F)] = true := by decide

theorem test_step_rol_acc :
    stepGives { rom [0x2A] with a := 0x00, p := 0x25 }
      [0x01, 0x00, 0x00, 0xFD, 0x24] 0x8001 [] = true := by decide

theorem test_step_ror_zpx :
    stepGives { rom [0x76, 0xF0] with x := 0x20, p := 0x25, ram := [(0x010, 0x02)] }
      [0x00, 0x20, 0x00, 0xFD, 0xA4] 0x8002 [(0x010, 0x81)] = true := by decide

theorem test_step_pha :
    stepGives { rom [0x48] with a := 0xAB, sp := 0x00 }
      [0xAB, 0x00, 0x00, 0xFF, 0x24] 0x8001 [(0x100, 0xAB)] = true := by decide

theorem test_step_php :
    stepGives { rom [0x08] with sp := 0xFD, p := 0xE5 }
      [0x00, 0x00, 0x00, 0xFC, 0xE5] 0x8001 [(0x1FD, 0xF5)] = true := by decide

theorem test_step_pla :
    stepGives { rom [0x68] with sp := 0xFF, ram := [(0x100, 0x80)] }
      [0x80, 0x00, 0x00, 0x00, 0xA4] 0x8001 [] = true := by decide

theorem test_step_plp :
    stepGives { rom [0x28] with sp := 0xFC, ram := [(0x1FD, 0xFF)] }
      [0x00, 0x00, 0x00, 0xFD, 0xEF] 0x8001 [] = true := by decide

theorem test_step_clc :
    stepGives { rom [0x18] with p := 0xFF }
      [0x00, 0x00, 0x00, 0xFD, 0xFE] 0x8001 [] = true := by decide

theorem test_step_sec :
    stepGives { rom [0x38] with p := 0x20 }
      [0x00, 0x00, 0x00, 0xFD, 0x21] 0x8001 [] = true := by decide

theorem test_step_cli :
    stepGives { rom [0x58] with p := 0xFF }
      [0x00, 0x00, 0x00, 0xFD, 0xFB] 0x8001 [] = true := by decide

theorem test_step_sei :
    stepGives { rom [0x78] with p := 0x20 }
      [0x00, 0x00, 0x00, 0xFD, 0x24] 0x8001 [] = true := by decide

theorem test_step_cld :
    stepGives { rom [0xD8] with p := 0xFF }
      [0x00, 0x00, 0x00, 0xFD, 0xF7] 0x8001 [] = true := by decide

theorem test_step_sed :
    stepGives { rom [0xF8] with p := 0x20 }
      [0x00, 0x00, 0x00, 0xFD, 0x28] 0x8001 [] = true := by decide

theorem test_step_clv :
    stepGives { rom [0xB8] with p := 0xFF }
      [0x00, 0x00, 0x00, 0xFD, 0xBF] 0x8001 [] = true := by decide

theorem test_step_jmp_abs :
    stepGives (rom [0x4C, 0x34, 0x12])
      [0x00, 0x00, 0x00, 0xFD, 0x24] 0x1234 [] = true := by decide

theorem test_step_jmp_ind :
    stepGives { rom [0x6C, 0xFF, 0x02] with ram := [(0x200, 0x12), (0x2FF, 0x34), (0x300, 0x56)] }
      [0x00, 0x00, 0x00, 0xFD, 0x24] 0x1234 [] = true := by decide

theorem test_step_jsr_abs :
    stepGives { rom [] with
        sp := 0x00, pc := 0x80FE, ram := [(0x1FF, 0xAA)], image := { Image.blank with prg := [(0x00FE, 0x20), (0x0100, 0x90)] } }
      [0x00, 0x00, 0x00, 0xFE, 0x24] 0x9000 [(0x100, 0x81), (0x1FF, 0x00)] = true := by decide

theorem test_step_rts :
    stepGives { rom [0x60] with sp := 0xFB, ram := [(0x1FC, 0xFF), (0x1FD, 0xFF)] }
      [0x00, 0x00, 0x00, 0xFD, 0x24] 0x0000 [] = true := by decide

theorem test_step_bpl :
    stepGives { rom [0x10, 0x10] with p := 0x24 }
      [0x00, 0x00, 0x00, 0xFD, 0x24] 0x8012 [] = true := by decide

theorem test_step_bmi :
    stepGives { rom [0x30, 0x10] with p := 0x24 }
      [0x00, 0x00, 0x00, 0xFD, 0x24] 0x8002 [] = true := by decide

theorem test_step_bvc :
    stepGives { rom [0x50, 0x10] with p := 0x64 }
      [0x00, 0x00, 0x00, 0xFD, 0x64] 0x8002 [] = true := by decide

theorem test_step_bvs :
    stepGives { rom [0x70, 0x10] with p := 0x64 }
      [0x00, 0x00, 0x00, 0xFD, 0x64] 0x8012 [] = true := by decide

theorem test_step_bcc :
    stepGives { rom [] with
        p := 0x24, pc := 0xFFF0, image := { Image.blank with prg := [(0x3FF0, 0x90), (0x3FF1, 0x7F)] } }
      [0x00, 0x00, 0x00, 0xFD, 0x24] 0x0071 [] = true := by decide

theorem test_step_bcs :
    stepGives { rom [0xB0, 0x10] with p := 0x24 }
      [0x00, 0x00, 0x00, 0xFD, 0x24] 0x8002 [] = true := by decide

theorem test_step_bne :
    stepGives { rom [0xD0, 0x80] with p := 0x24 }
      [0x00, 0x00, 0x00, 0xFD, 0x24] 0x7F82 [] = true := by decide

theorem test_step_beq :
    stepGives { rom [] with
        p := 0x26, pc := 0x0005, ram := [(0x005, 0xF0), (0x006, 0xF0)], image := { Image.blank with prg := [] } }
      [0x00, 0x00, 0x00, 0xFD, 0x26] 0xFFF7 [] = true := by decide

theorem test_step_brk :
    stepGives { rom [] with
        sp := 0x01, p := 0xE3, pc := 0x0300, image := { Image.blank with prg := [(0x3FFE, 0x34), (0x3FFF, 0x12)] } }
      [0x00, 0x00, 0x00, 0xFE, 0xE7] 0x1234 [(0x100, 0x02), (0x101, 0x03), (0x1FF, 0xF3)] = true := by decide

theorem test_step_rti :
    stepGives { rom [0x40] with sp := 0xFA, p := 0x24, ram := [(0x1FB, 0xFF), (0x1FC, 0x02), (0x1FD, 0x80)] }
      [0x00, 0x00, 0x00, 0xFD, 0xEF] 0x8002 [] = true := by decide

theorem test_step_nop :
    stepGives { rom [0xEA] with p := 0xE7 }
      [0x00, 0x00, 0x00, 0xFD, 0xE7] 0x8001 [] = true := by decide

theorem test_step_unofficial_nop :
    stepGives { rom [0x0C, 0x02, 0x20] with a := 0x11, x := 0x22, p := 0xE7 }
      [0x11, 0x22, 0x00, 0xFD, 0xE7] 0x8003 [] = true := by decide

theorem test_step_illegal :
    stepGives { rom [0xA7, 0x10] with a := 0x11, x := 0x22, p := 0xE7 }
      [0x11, 0x22, 0x00, 0xFD, 0xE7] 0x8001 [] = true := by decide

/-! ### Ports, open bus and the burst: 95_test_vectors.md 2.1 -/

/-- The events of two port stores, newest first. -/
theorem test_port_events :
    ((State.reset.busStore 0x2006 0x3F).busStore 0x2002 0xFF).videoLog =
      [{ port := .status, value := 0xFF }, { port := .address, value := 0x3F }] := by decide

theorem test_status_port_keeps_its_latch : (State.reset.busStore 0x2002 0xFF).ports = State.reset.ports := by decide

theorem test_port_mirror : (State.reset.busStore 0x3FFF 0x77).ports.data = 0x77 := by decide

theorem test_write_only_ports_read_zero :
    ([0x2000, 0x2001, 0x2003, 0x2005, 0x2006] : List Word).all
      (fun a => (State.reset.busStore a 0xFF).busLoad a == 0) = true := by decide

theorem test_ram_mirror : (State.reset.busStore 0x1FFF 0x5A).busLoad 0x07FF = 0x5A := by decide

theorem test_bus_store_is_no_dma : State.reset.busStore 0x4014 0x02 = State.reset := by decide

/-- The first eight bytes of a burst from page 0x20, the port range: 00 00 80 00 00 00 00 07, newest first. -/
theorem test_burst_from_ports :
    ({ State.reset with
        ports := { VideoPorts.cleared with status := 0x80, oamData := 0x09, data := 0x07 } }.dmaBytes 0x20 8).videoLog.map
      VideoWrite.value = [0x07, 0x00, 0x00, 0x00, 0x00, 0x80, 0x00, 0x00] := by decide

/-- INC of port 0: the load gives 0x00, the store 0x01 is an event. -/
theorem test_inc_port :
    (match step (rom [0xEE, 0x00, 0x20]) with
      | .next t => t.videoLog == [{ port := .control, value := 0x01 }] && t.ports.control == 0x01
      | _ => false) = true := by decide

/-- 95_test_vectors.md 1.2: 0xAD at 0xFF and 0xDE at 0x00 form the zero-page word 0xDEAD. -/
theorem test_zp_word : ({ State.reset with ram := [(0x00, 0xDE), (0xFF, 0xAD)] }).zpWord 0xFF = 0xDEAD := by decide

/-! ### The Mapper: 95_test_vectors.md 1.6, 1.7, 2.1 -/

/-- Five stores of the bits of `w`, least significant first, to `a`. -/
def load5 (m : Mapper) (a : Word) (w : Byte) : Mapper :=
  ((((m.prgStore a w).prgStore a (w >>> 1)).prgStore a (w >>> 2)).prgStore a (w >>> 3)).prgStore a (w >>> 4)

/-- What the loads of 0x8000, 0xBFFF, 0xC000, 0xFFFF, 0x6000 give under `m`. -/
def banksSeen (m : Mapper) : List Byte :=
  [0x8000, 0xBFFF, 0xC000, 0xFFFF, 0x6000].map fun a => { mmc1Machine with mapper := m }.busLoad a

theorem test_mmc1_at_construction : banksSeen mmc1Machine.mapper = [0xB0, 0xB0, 0xB7, 0xB7, 0x00] := by decide

theorem test_mmc1_mode3 : banksSeen (load5 mmc1Machine.mapper 0xE000 0x05) = [0xB5, 0xB5, 0xB7, 0xB7, 0x00] := by decide

theorem test_mmc1_mode2 :
    banksSeen (load5 (load5 mmc1Machine.mapper 0xE000 0x05) 0x8000 0x08) = [0xB0, 0xB0, 0xB5, 0xB5, 0x00] := by decide

theorem test_mmc1_mode0 :
    banksSeen (load5 (load5 mmc1Machine.mapper 0xE000 0x05) 0x8000 0x00) = [0xB4, 0xB4, 0xB5, 0xB5, 0x00] := by decide

/-- b = 15, modulo 8 banks 7. -/
theorem test_mmc1_bank_wraps :
    banksSeen (load5 mmc1Machine.mapper 0xFFFF 0x1F) = [0xB7, 0xB7, 0xB7, 0xB7, 0x00] := by decide

/-- Four stores to 0xE000, the fifth to 0xA000: its address selects chr0, which receives 0x0F. -/
theorem test_mmc1_fifth_address_selects :
    (match ((((mmc1Machine.mapper.prgStore 0xE000 1).prgStore 0xE000 1).prgStore 0xE000 1).prgStore 0xE000 1).prgStore
        0xA000 0 with
      | .mmc1 m => m.chr0 == 0x0F && m.prgb == 0 && m.count == 0
      | _ => false) = true := by decide

/-- A store with bit 7 set empties the group and sets control to 0x0C. -/
theorem test_mmc1_reset_store :
    (match (((load5 mmc1Machine.mapper 0x8000 0x00).prgStore 0x8000 1).prgStore 0x8000 1).prgStore 0x9234 0x80 with
      | .mmc1 m => m.control == 0x0C && m.count == 0 && m.shift == 0
      | _ => false) = true := by decide

theorem test_mmc1_low_stores_ignored : mmc1Machine.mapper.prgStore 0x7FFF 0x80 = mmc1Machine.mapper := by decide

/-- With no CHR units the CHR port is a RAM. -/
theorem test_mmc1_chr_ram : (mmc1Machine.chrStore 0x1FFF 0x5A).chrLoad 0x1FFF = some 0x5A := by decide

/-- CHR bank mode 1: chr1 selects the 4 KB bank of the upper half (20_memory.md R72): offset 0x3000 of 0x4000. -/
theorem test_mmc1_chr_banks :
    ({ mmc1Machine with
        image := { mmc1Machine.image with chrUnits := 2, chr := [(0x3FFF, 0x77)] }
        mapper := .mmc1 { Mmc1.constructed [] with control := 0x1C, chr1 := 0x03 } }).chrLoad 0x1FFF = some 0x77 := by decide

theorem test_scratch_ram : (testMachine.memWrite 0x7FFF 0x01).memRead 0x7FFF = 0x01 := by decide

theorem test_variant_rom_ignores_stores : testMachine.memWrite 0x8000 0x01 = testMachine := by decide

theorem test_variant_chr : testMachine.chrLoad 0x1FFF = some 0x00 := by decide

/-- 95_test_vectors.md 1.6: a 32 KB image reads 0xC0DE at offset 0x40DE, a 16 KB image at 0x00DE. -/
theorem test_nrom_masks :
    ({ Image.blank with prgUnits := 2 }).nromOffset 0xC0DE = some 0x40DE ∧ Image.blank.nromOffset 0xC0DE = some 0x00DE ∧
      ({ Image.blank with prgUnits := 2 }).nromOffset 0x60DE = some 0x60DE := by decide

/-- The NROM CHR port: the last byte is read, one beyond a CHR-less image is refused, a store changes nothing. -/
theorem test_nrom_chr :
    ({ State.reset with image := { Image.blank with chr := [(0x1FFF, 0x42)] } }).chrLoad 0x1FFF = some 0x42 ∧
      ({ State.reset with image := { Image.blank with chrUnits := 0 } }).chrLoad 0x0000 = none ∧
      State.reset.chrStore 0x0000 0x42 = State.reset := by decide

/-- 95_test_vectors.md 1.7, the instances of `select_mapper`. -/
theorem test_select_mapper :
    ([(0x00, 0x00, 0), (0x10, 0x00, 1), (0x1F, 0x0F, 1), (0x01, 0x08, 0), (0x40, 0x00, 4), (0x00, 0x10, 16),
      (0xF0, 0xF0, 255)] : List (Byte × Byte × Byte)).all
      (fun r => ({ Image.blank with flags6 := r.1, flags7 := r.2.1 }).mapperNumber == r.2.2) = true := by decide

/-! ### Reset, construction, the outside, the file format -/

/-- 95_test_vectors.md 1.5 and 2.9: the vector gives PC, every register is kept. -/
theorem test_reset_vector :
    let s : State := { rom [] with a := 0x12, sp := 0x78, image := { Image.blank with prg := [(0x3FFC, 0xAD), (0x3FFD, 0xDE)] } }
    s.performReset.pc = 0xDEAD ∧ s.performReset.a = 0x12 ∧ s.performReset.sp = 0x78 := by decide

/-- 70_reset_and_hazards.md R260 with 60_exceptions.md R233: mapper number 2, four PRG units under NROM, bit 5 clear. -/
theorem test_construction_refusals :
    (match construct { Construction.default with image := { Image.blank with flags6 := 0x20 } } with
      | .error (.fatal (.unsupportedMapper 2)) => true | _ => false) = true ∧
    (match construct { Construction.default with image := { Image.blank with prgUnits := 4 } } with
      | .error (.imageMisfit .nrom 4) => true | _ => false) = true ∧
    (match construct { Construction.default with initP := 0x04 } with
      | .error .badParameter => true | _ => false) = true := by decide

/-- 45_system.md R219: a halted machine takes no further step. -/
theorem test_halt_then_fault :
    (match step (rom [0x02]) with
      | .next t => (match step t with | .fault (.halted (.unimplementedOpcode 0x02 _)) => true | _ => false)
      | _ => false) = true := by decide

/-- 60_exceptions.md R237: the NMI pushes P with bit 4 clear and bit 5 set and goes through 0xFFFA. -/
theorem test_nmi :
    stepGives
      { rom [] with
        p := 0x30
        nmiPending := true
        params := { Config.defaultParams with nmiEnabled := true }
        image := { Image.blank with prg := [(0x3FFA, 0x34), (0x3FFB, 0x12)] } }
      [0x00, 0x00, 0x00, 0xFA, 0x34] 0x1234 [(0x1FB, 0x20), (0x1FC, 0x00), (0x1FD, 0x80)] = true := by decide

/-- 20_memory.md R80: the agent's byte is there for the load of the very next step. -/
theorem test_agent_moves_before_the_step :
    stepGives
      { inRam [0xAD, 0x02, 0x20] with outside := [{ agent := some { status := 0x80, oamData := 0, data := 0 }, nmi := true }] }
      [0x80, 0x00, 0x00, 0xFD, 0xA4] 0x0203 [] = true := by decide

/-- 20_memory.md R84: code stored into RAM is what the next fetch sees. -/
theorem test_fetch_sees_stores : ((inRam []).memWrite 0x0A00 0xE8).fetchInstr = .inx := by decide

/-- 20_memory.md R60: a header for one CHR unit and no PRG, cut short, and with a wrong magic. -/
theorem test_cartridge_refusals :
    (match parseCartridge [0x4E, 0x45, 0x53, 0x1A, 0, 1, 0, 0, 0, 0, 0, 0, 0, 0, 0, 0, 0xAA] with
      | .error .truncated => true | _ => false) = true ∧
    (match parseCartridge [0x4E, 0x45, 0x53, 0x1B, 0, 0, 0, 0, 0, 0, 0, 0, 0, 0, 0, 0] with
      | .error .badMagic => true | _ => false) = true ∧
    (match parseCartridge [0x4E, 0x45, 0x53, 0x1A, 0, 0, 0x10, 0x20, 0x30, 0, 0, 0, 0, 0, 0, 0] with
      | .ok img => img.mapperNumber == 0x21 && img.prgRamSize == 0x30 | .error _ => false) = true := by decide

/-- The word given is the very next instruction from reset, at PC 0x0000 and from a PC where no byte can be placed. -/
theorem test_with_fetch_word :
    stepGives (State.reset.withFetchWord 16 0x42A9) [0x42, 0x00, 0x00, 0xFD, 0x24] 0x0002 [] = true ∧
      stepGives ({ State.reset with pc := 0x4000 }.withFetchWord 16 0x42A9) [0x42, 0x00, 0x00, 0xFD, 0x24] 0x0202 [] =
        true := by decide

/-- The memory form at reset, and kept by writing a blank. -/
theorem test_memory_form :
    Memory.wf State.reset.ram = true ∧ Memory.write (Memory.write [] 5 0xAA) 5 0x00 = [] ∧
      Memory.write (Memory.write [] 5 0xAA) 3 0xBB = [(3, 0xBB), (5, 0xAA)] := by decide

/-! ### A witness for the hypotheses of each statement -/

/-- DecodeInvertsEncode, RegisterWriters, StepRunsDecodedInstruction: well-formed instructions of each class. -/
theorem witness_well_formed :
    (Instr.lda (.izy 0xFF)).wf Config.defaultNopSet = true ∧ (Instr.inc (.abx 0xFFFF)).wf Config.defaultNopSet = true ∧
      (Instr.unofficialNop 0x1C (.word 0x1234)).wf Config.defaultNopSet = true ∧
      (Instr.illegal 0xA7).wf Config.defaultNopSet = true ∧ (Instr.illegal 0x1A).wf [] = true := by decide

/-- EncodeInvertsDecode: bytes that decode, with a byte left over. -/
theorem witness_decodes :
    decode Config.defaultNopSet [0xB1, 0xFF, 0x77] = .ok (.lda (.izy 0xFF), [0x77]) := rfl

theorem witness_StepRunsDecodedInstruction :
    let s := inRam [0xE8]
    s.status = .running ∧ s.boundary.nmiDue = false ∧ Instr.inx.wf s.params.nopSet = true ∧ s.outside = [] ∧
      decode s.params.nopSet [s.boundary.memRead s.pc, s.boundary.memRead (s.pc + 1), s.boundary.memRead (s.pc + 2)] =
        .ok (.inx, [0x00, 0x00]) := ⟨rfl, rfl, rfl, rfl, rfl⟩

theorem witness_InstructionsAdvancePc :
    Instr.transfersControl .inx = false ∧ Instr.transfersControl (.sta (.abs 0x4014)) = false ∧
      Instr.transfersControl (.illegal 0xA7) = false := by decide

/-- HaltedMachineTakesNoStep: the state after an unimplemented opcode. -/
theorem witness_HaltedMachineTakesNoStep :
    ∃ t why, step (inRam [0xA7]) = .next t ∧ t.status = .halted why := ⟨_, _, rfl, rfl⟩

/-- HaltedMachineTakesNoStep: a CHR store that a running machine takes and a Halted one does not. -/
theorem test_chr_store_halted :
    (mmc1Machine.raiseFatal (.unsupportedMapper 2)).chrStore 0 0x5A = mmc1Machine.raiseFatal (.unsupportedMapper 2) ∧
      mmc1Machine.chrStore 0 0x5A ≠ mmc1Machine := by decide

/-- RunningMachineNeverFaults, StepKeepsInvariant, BreakFlagOnlyFalls, ResetLoadsPcOnly, and every statement whose
premise is the invariant. -/
theorem witness_invariant :
    State.reset.inv = true ∧ State.reset.status = .running ∧ flagU State.reset.p = true ∧
      flagB State.reset.p = false ∧ Memory.wf State.reset.ram = true ∧ ∃ t, step State.reset = .next t :=
  ⟨by decide, rfl, by decide, by decide, by decide, _, rfl⟩

/-- The other two variants meet the invariant as well. -/
theorem witness_invariant_variants : mmc1Machine.inv = true ∧ testMachine.inv = true := by decide

/-- OnlyUnimplementedOpcodesHalt. -/
theorem witness_OnlyUnimplementedOpcodesHalt :
    ∃ t why, (inRam [0xFF]).status = .running ∧ step (inRam [0xFF]) = .next t ∧ t.status = .halted why :=
  ⟨_, _, rfl, rfl, rfl⟩

theorem witness_UnimplementedOpcodeHaltsWithDump :
    let s := inRam [0xEB]
    s.status = .running ∧ s.boundary.nmiDue = false ∧ officialOpcodes.contains (s.boundary.memRead s.pc) = false ∧
      s.params.nopSet.lengthOf (s.boundary.memRead s.pc) = none := by decide

/-- ConstructionGivesLegalMachine: the three variants. -/
theorem witness_ConstructionGivesLegalMachine :
    (∃ s, construct Construction.default = .ok s) ∧ Construction.default.testVariant = false ∧
      Construction.default.image.mapperNumber = 0 ∧
      (∃ s, construct { Construction.default with testVariant := true } = .ok s) ∧
      (∃ s, construct { Construction.default with image := mmc1Machine.image } = .ok s) ∧
      mmc1Machine.image.mapperNumber = 1 :=
  ⟨⟨_, rfl⟩, rfl, rfl, ⟨_, rfl⟩, ⟨_, rfl⟩, rfl⟩

/-- ConstructionRefusals: an admissible construction for each clause, at the ends of its range. -/
theorem witness_ConstructionRefusals :
    let withImage := fun (test : Bool) (flags6 flags7 units : Byte) =>
      { Construction.default with
        testVariant := test
        image := { Image.blank with flags6 := flags6, flags7 := flags7, prgUnits := units } }
    ([withImage false 0x20 0x00 1, withImage false 0xF0 0xF0 1, withImage true 0x00 0x00 0, withImage true 0x00 0x00 3,
      withImage false 0x0F 0x0F 0, withImage false 0x0F 0x0F 3, withImage false 0x10 0x00 0, withImage true 0xF0 0xF0 2,
      withImage false 0x00 0x00 1, withImage false 0x10 0x00 1, withImage false 0x10 0x00 255] : List Construction).all
      Construction.admissible = true := by decide

/-- StatusBit5AlwaysOne, BreakFlagOnlyFalls, RegisterWriters, FlagWriters: an instruction that completes and writes
neither A nor C. -/
theorem witness_writers :
    ∃ t, exec .inx State.reset = .next t ∧ Instr.inx.wf State.reset.params.nopSet = true ∧
      Instr.writesA .inx = false ∧ Instr.writesY .inx = false ∧ Instr.writesS .inx = false ∧
      Instr.writesX .iny = false ∧ Instr.writesC .inx = false ∧ Instr.writesI .inx = false ∧
      Instr.writesD .inx = false ∧ Instr.writesBU .inx = false ∧ Instr.writesV .inx = false ∧
      Instr.writesZN (.sta (.zp 0)) = false ∧ Instr.inx ≠ .plp ∧ Instr.inx ≠ .rti :=
  ⟨_, rfl, by decide, by decide, by decide, by decide, by decide, by decide, by decide, by decide, by decide, by decide,
    by decide, by decide, by decide⟩

/-- LoadsUnchangedOutsideStores: a store that completes, an address it reaches through a mirror and two it does not. -/
theorem witness_LoadsUnchangedOutsideStores :
    (∃ t, exec (.sta (.zp 0x10)) State.reset = .next t) ∧ State.reset.storesOf (.sta (.zp 0x10)) = [0x0010] ∧
      State.reset.storeReaches 0x0010 0x1810 = true ∧ State.reset.storeReaches 0x0010 0x0011 = false ∧
      State.reset.storeReaches 0x0010 0x2010 = false ∧ State.reset.storeReaches 0x4014 0x3FFC = true ∧
      State.reset.storeReaches 0x4014 0x3FFF = false ∧ mmc1Machine.storeReaches 0x8000 0x7FFF = false ∧
      testMachine.storeReaches 0x7FFF 0x7FFE = false :=
  ⟨⟨_, rfl⟩, by decide, by decide, by decide, by decide, by decide, by decide, by decide, by decide⟩

/-- DeviceAndConfigurationFrame: a store below 0x2000, a store to open bus, and one to a port. -/
theorem witness_DeviceAndConfigurationFrame :
    (∃ t, exec (.sta (.abs 0x1FFF)) State.reset = .next t) ∧
      State.reset.storesOf (.sta (.abs 0x1FFF)) = [0x1FFF] ∧ State.reset.storesOf (.sta (.abs 0x5FFF)) = [0x5FFF] ∧
      State.reset.storesOf (.sta (.abs 0x2000)) = [0x2000] ∧ State.reset.storesOf .brk = [0x01FD, 0x01FC, 0x01FB] ∧
      (Instr.sta (.abs 0x1FFF)).wf State.reset.params.nopSet = true :=
  ⟨⟨_, rfl⟩, by decide, by decide, by decide, by decide, by decide⟩

/-- RamMirrors, OpenBusReadsZeroAndIgnoresStores, PortLoadsAndStores: the ends of each range. -/
theorem witness_ranges :
    Memory.wf State.reset.ram = true ∧ (0x1FFF : Word).toNat < 0x2000 ∧
      (0x1FFF : Word).toNat % 0x800 = (0x07FF : Word).toNat % 0x800 ∧
      0x4000 ≤ (0x4000 : Word).toNat ∧ (0x5FFF : Word).toNat < 0x6000 ∧
      0x2000 ≤ (0x2000 : Word).toNat ∧ (0x3FFF : Word).toNat < 0x4000 := by decide

/-- CpuStoreByRange: the invariant holds and each range has its first and last address. -/
theorem witness_CpuStoreByRange :
    State.reset.inv = true ∧ (0x1FFF : Word).toNat < 0x2000 ∧ 0x2000 ≤ (0x2000 : Word).toNat ∧
      (0x3FFF : Word).toNat < 0x4000 ∧ (0x4014 : Word).toNat = 0x4014 ∧ (0x4013 : Word).toNat ≠ 0x4014 ∧
      (0x5FFF : Word).toNat < 0x6000 ∧ 0x6000 ≤ (0x6000 : Word).toNat ∧ (0x7FFF : Word).toNat < 0x8000 ∧
      0x8000 ≤ (0x8000 : Word).toNat := by decide

/-- NromReadsMaskedImage: both variants at the lowest address, both image sizes. -/
theorem witness_NromReadsMaskedImage :
    State.reset.mapper = .nrom ∧ 0x6000 ≤ (0x6000 : Word).toNat ∧ (∃ scratch, testMachine.mapper = .test scratch) ∧
      0x8000 ≤ (0x8000 : Word).toNat ∧ State.reset.image.prgUnits = 1 ∧
      ({ State.reset with image := { Image.blank with prgUnits := 2 } } : State).image.prgUnits = 2 :=
  ⟨rfl, by decide, ⟨_, rfl⟩, by decide, rfl, rfl⟩

/-- Mmc1SerialLoad, one store: a group with three bits and one with four, from a control register not in mode 3. -/
theorem witness_Mmc1SerialLoad_one :
    let m : Mmc1 :=
      { shift := 0b11000, count := 3, control := 0, chr0 := 0, chr1 := 0, prgb := 0, chrRam := [] }
    m.count.toNat < 4 ∧ ({ m with count := 4 } : Mmc1).count.toNat = 4 ∧ ({ m with count := 0 } : Mmc1).count = 0 ∧
      0x8000 ≤ (0x8000 : Word).toNat ∧ (0x7F : Byte).getLsbD 7 = false ∧ (0x80 : Byte).getLsbD 7 = true := by decide

/-- Mmc1SerialLoad: the bytes 7F 7E 03 02 41 deliver 0b10101, whatever the first four addresses. -/
theorem witness_Mmc1SerialLoad :
    (∀ a ∈ ([0x8000, 0xFFFF, 0xA000, 0xE000, 0xC000] : List Word), 0x8000 ≤ a.toNat) ∧ (∀ v ∈ ([0x7F, 0x7E, 0x03, 0x02, 0x41] : List Byte), v.getLsbD 7 = false) ∧
      ([0x7F, 0x7E, 0x03, 0x02, 0x41] : List Byte).map (·.getLsbD 0) =
        [0, 1, 2, 3, 4].map (0b10101 : BitVec 5).getLsbD :=
  ⟨by simp, by simp, by decide⟩

/-- Mmc1BankTranslation: the ends of both ranges, eight banks. -/
theorem witness_Mmc1BankTranslation :
    (∃ m, mmc1Machine.mapper = .mmc1 m) ∧ 1 ≤ mmc1Machine.image.prgUnits.toNat ∧ 0x8000 ≤ (0x8000 : Word).toNat ∧
      0x6000 ≤ (0x6000 : Word).toNat ∧ (0x7FFF : Word).toNat < 0x8000 :=
  ⟨⟨_, rfl⟩, by decide, by decide, by decide, by decide⟩

/-- TestVariantScratchRam. -/
theorem witness_TestVariantScratchRam :
    testMachine.inv = true ∧ testMachine.mapper = .test [] ∧ 0x6000 ≤ (0x6000 : Word).toNat ∧
      (0x7FFF : Word).toNat < 0x8000 ∧ (0x7FFF : Word) ≠ 0x6000 := by decide

/-- ChrPorts: a machine for each clause. -/
theorem witness_ChrPorts :
    State.reset.mapper = .nrom ∧ (∃ scratch, testMachine.mapper = .test scratch) ∧
      (∃ m, mmc1Machine.mapper = .mmc1 m) ∧ mmc1Machine.image.chrUnits.toNat = 0 ∧ mmc1Machine.inv = true ∧
      mmc1Machine.status = .running ∧
      1 ≤ ({ mmc1Machine with image := { mmc1Machine.image with chrUnits := 1 } } : State).image.chrUnits.toNat :=
  ⟨rfl, ⟨_, rfl⟩, ⟨_, rfl⟩, by decide, by decide, rfl, by decide⟩

/-- JumpInstructions: the page bug on and off. -/
theorem witness_JumpInstructions :
    State.reset.params.jmpIndirectPageBug = true ∧
      ({ State.reset with params := { Config.defaultParams with jmpIndirectPageBug := false } } :
        State).params.jmpIndirectPageBug = false := by decide

/-- NoOperations: a member of each list. -/
theorem witness_NoOperations :
    (0xFA : Byte) ∈ ([0x1A, 0x3A, 0x5A, 0x7A, 0xDA, 0xFA] : List Byte) ∧
      (0x89 : Byte) ∈ ([0x80, 0x82, 0x89, 0xC2, 0xE2, 0x04, 0x44, 0x64, 0x14, 0x34, 0x54, 0x74, 0xD4, 0xF4] : List Byte) ∧
      (0xFC : Byte) ∈ ([0x0C, 0x1C, 0x3C, 0x5C, 0x7C, 0xDC, 0xFC] : List Byte) := by decide

/-- StoreThroughImmediateIsFatalAndUnreachable: a storing instruction of the list. -/
theorem witness_StoreThroughImmediate :
    Instr.ror (.imm 0) ∈ [Instr.sta (.imm 0), .stx (.imm 0), .sty (.imm 0), .inc (.imm 0), .dec (.imm 0),
      .asl (.imm 0), .lsr (.imm 0), .rol (.imm 0), .ror (.imm 0)] := by decide

/-- NmiTakenAtStepBoundary: an NMI requested at the boundary itself, with P.I set. -/
theorem witness_NmiTakenAtStepBoundary :
    let s : State :=
      { State.reset with
        params := { Config.defaultParams with nmiEnabled := true }
        outside := [{ agent := none, nmi := true }] }
    s.inv = true ∧ s.status = .running ∧ s.params.nmiEnabled = true ∧ s.boundary.nmiPending = true ∧
      State.reset.params.nmiEnabled = false := by decide

/-- OutsideActsAtBoundariesOnly: an entry to come, the agent open, closed, and with no move. -/
theorem witness_OutsideActsAtBoundariesOnly :
    let b : Boundary := { agent := some { status := 0x80, oamData := 0x01, data := 0x02 }, nmi := false }
    ({ State.reset with outside := [b] } : State).outside = b :: [] ∧ State.reset.params.videoAgent = .opened ∧
      (rom []).params.videoAgent = .closed ∧ ({ b with agent := none } : Boundary).agent = none ∧
      Port.readable .control = false := by decide

/-- OutsideActsAtBoundariesOnly: an instruction and a step that complete, with nothing to come. -/
theorem witness_OutsideActsAtBoundariesOnly_step :
    (∃ t, exec (.sta (.abs 0x2002)) State.reset = .next t) ∧ (∃ t, step State.reset = .next t) ∧
      State.reset.outside = [] := ⟨⟨_, rfl⟩, ⟨_, rfl⟩, rfl⟩

end Sys2Proof.Tests
end

section
/-! PROOF. What every instruction does and leaves alone: the state it ends in, the registers and flags it keeps, and
that memory and devices change by its stores alone. -/

namespace Sys2Proof.Machine

/-! ### The end of an instruction -/

/-- The state an instruction ends in; `exec_eq_next_after` says that every meaning answers one. -/
def State.after (s : State) (i : Instr) : State :=
  match exec i s with
  | .next t => t
  | .fault _ | .refused _ => s

/-- No instruction's meaning is a fault or a refusal. -/
theorem exec_eq_next_after (i : Instr) (s : State) : exec i s = .next (s.after i) := by
  cases i <;> rfl

theorem exec_eq_next_iff {i : Instr} {s t : State} : exec i s = .next t ↔ s.after i = t := by
  rw [exec_eq_next_after]
  exact ⟨Host.Outcome.next.inj, congrArg _⟩

/-- A step that answers a next state took the NMI or ran the instruction at PC, after the boundary. -/
theorem step_eq_next {s t : State} (h : step s = .next t) :
    t = s.boundary.takeNmi ∨ t = s.boundary.after s.boundary.fetchInstr := by
  rcases step_cases s with ⟨why, _, e⟩ | ⟨_, _, e⟩ | ⟨_, _, e⟩ <;> rw [e] at h
  · cases h
  · exact .inl (Host.Outcome.next.inj h).symm
  · exact .inr (exec_eq_next_iff.1 h).symm

/-! ### Pushes, traps and branches, register by register -/

@[simp] theorem State.push8_a (s : State) (v : Byte) : (s.push8 v).a = s.a := by rw [State.push8_eq]
@[simp] theorem State.push8_x (s : State) (v : Byte) : (s.push8 v).x = s.x := by rw [State.push8_eq]
@[simp] theorem State.push8_y (s : State) (v : Byte) : (s.push8 v).y = s.y := by rw [State.push8_eq]
@[simp] theorem State.push8_sp (s : State) (v : Byte) : (s.push8 v).sp = s.sp - 1 := by rw [State.push8_eq]
@[simp] theorem State.push8_p (s : State) (v : Byte) : (s.push8 v).p = s.p := by rw [State.push8_eq]
@[simp] theorem State.push8_pc (s : State) (v : Byte) : (s.push8 v).pc = s.pc := by rw [State.push8_eq]
@[simp] theorem State.push8_status (s : State) (v : Byte) : (s.push8 v).status = s.status := by rw [State.push8_eq]

@[simp] theorem State.push16_a (s : State) (w : Word) : (s.push16 w).a = s.a := by rw [State.push16_eq]
@[simp] theorem State.push16_x (s : State) (w : Word) : (s.push16 w).x = s.x := by rw [State.push16_eq]
@[simp] theorem State.push16_y (s : State) (w : Word) : (s.push16 w).y = s.y := by rw [State.push16_eq]
@[simp] theorem State.push16_p (s : State) (w : Word) : (s.push16 w).p = s.p := by rw [State.push16_eq]
@[simp] theorem State.push16_sp (s : State) (w : Word) : (s.push16 w).sp = s.sp - 1 - 1 := by rw [State.push16_eq]
@[simp] theorem State.push16_status (s : State) (w : Word) : (s.push16 w).status = s.status := by rw [State.push16_eq]

section
variable (s : State) (ret : Word) (status : Byte) (vector : Word)

@[simp] theorem State.takeTrap_a : (s.takeTrap ret status vector).a = s.a := by
  obtain ⟨_, e⟩ := s.takeTrap_eq ret status vector; rw [e]
@[simp] theorem State.takeTrap_x : (s.takeTrap ret status vector).x = s.x := by
  obtain ⟨_, e⟩ := s.takeTrap_eq ret status vector; rw [e]
@[simp] theorem State.takeTrap_y : (s.takeTrap ret status vector).y = s.y := by
  obtain ⟨_, e⟩ := s.takeTrap_eq ret status vector; rw [e]
@[simp] theorem State.takeTrap_sp : (s.takeTrap ret status vector).sp = s.sp - 1 - 1 - 1 := by
  obtain ⟨_, e⟩ := s.takeTrap_eq ret status vector; rw [e]
@[simp] theorem State.takeTrap_p : (s.takeTrap ret status vector).p = withI s.p true := by
  obtain ⟨_, e⟩ := s.takeTrap_eq ret status vector; rw [e]
@[simp] theorem State.takeTrap_status : (s.takeTrap ret status vector).status = s.status := by
  obtain ⟨_, e⟩ := s.takeTrap_eq ret status vector; rw [e]

end

@[simp] theorem State.returnFromTrap_a (s : State) : s.returnFromTrap.a = s.a := by
  rw [State.returnFromTrap_eq]
@[simp] theorem State.returnFromTrap_x (s : State) : s.returnFromTrap.x = s.x := by
  rw [State.returnFromTrap_eq]
@[simp] theorem State.returnFromTrap_y (s : State) : s.returnFromTrap.y = s.y := by
  rw [State.returnFromTrap_eq]
@[simp] theorem State.returnFromTrap_status (s : State) : s.returnFromTrap.status = s.status := by
  rw [State.returnFromTrap_eq]

@[simp] theorem State.branch_a (s : State) (c : Bool) (d : Byte) : (s.branch c d).a = s.a := by rw [State.branch_eq]
@[simp] theorem State.branch_x (s : State) (c : Bool) (d : Byte) : (s.branch c d).x = s.x := by rw [State.branch_eq]
@[simp] theorem State.branch_y (s : State) (c : Bool) (d : Byte) : (s.branch c d).y = s.y := by rw [State.branch_eq]
@[simp] theorem State.branch_sp (s : State) (c : Bool) (d : Byte) : (s.branch c d).sp = s.sp := by rw [State.branch_eq]
@[simp] theorem State.branch_p (s : State) (c : Bool) (d : Byte) : (s.branch c d).p = s.p := by rw [State.branch_eq]
@[simp] theorem State.branch_status (s : State) (c : Bool) (d : Byte) : (s.branch c d).status = s.status := by
  rw [State.branch_eq]

/-- The byte pushed stands in the slot S designated. -/
theorem State.memRead_push8 {s : State} (v : Byte) (h : Memory.wf s.ram = true) :
    (s.push8 v).memRead (stackAddress s.sp) = v := by
  rw [State.push8_eq, State.memRead_stack]
  exact Memory.read_write_same _ v h

/-- The status byte of a trap stands in the third slot. -/
theorem State.memRead_takeTrap {s : State} (ret : Word) (status : Byte) (vector : Word) (h : Memory.wf s.ram = true) :
    (s.takeTrap ret status vector).memRead (stackAddress (s.sp - 1 - 1)) = status := by
  obtain ⟨_, e⟩ := s.takeTrap_eq ret status vector
  rw [e, State.memRead_stack]
  exact Memory.read_write_same _ status (Memory.wf_write _ _ (Memory.wf_write _ _ h))

/-! ### Stores through a resolved mode -/

theorem State.resolve_ne_acc {m : Operand} (s : State) (h : m.mode ≠ .acc) : s.resolve m ≠ .acc := by
  cases m with
  | acc => exact absurd rfl h
  | _ => exact Target.noConfusion

theorem State.resolve_ne_imm {m : Operand} (s : State) (h : m.mode ≠ .imm) (b : Byte) : s.resolve m ≠ .imm b := by
  cases m with
  | imm => exact absurd rfl h
  | _ => exact Target.noConfusion

theorem State.store_a {t : Target} (s : State) (v : Byte) (h : t ≠ .acc) : (s.store t v).a = s.a := by
  rcases s.store_cases t v with ⟨ht, _⟩ | ⟨_, _, e⟩ | ⟨ea, _, e⟩
  · exact absurd ht h
  · rw [e, State.raiseFatal_a]
  · rw [e, State.memWrite_a]

theorem State.store_status {t : Target} (s : State) (v : Byte) (h : ∀ b, t ≠ .imm b) :
    (s.store t v).status = s.status := by
  rcases s.store_cases t v with ⟨_, e⟩ | ⟨b, ht, _⟩ | ⟨ea, _, e⟩
  · rw [e, State.setA_status]
  · exact absurd ht (h b)
  · rw [e, State.memWrite_status]

/-! ### Registers and status

Where an instruction stores, pushes, traps, returns or branches, the frame lemma of that operation answers; where it is
a listed writer there is nothing to show; in the remaining cases the register is read off the meaning. -/

/-- PC after an instruction that does not transfer control. -/
theorem State.after_pc (s : State) {i : Instr} (hi : i.transfersControl = false) :
    (s.after i).pc = s.pc + BitVec.ofNat 16 i.length := by
  cases i with
  | sta | stx | sty | inc | dec | asl | lsr | rol | ror => exact State.store_pc _ _ _
  | pha | php => exact State.push8_pc _ _
  | jmpAbs | jmpInd | jsr | rts | bpl | bmi | bvc | bvs | bcc | bcs | bne | beq | brk | rti => cases hi
  | _ => rfl

theorem State.after_a (s : State) {i : Instr} {nops : NopSet} (hwf : i.wf nops = true) (hi : i.writesA = false) :
    (s.after i).a = s.a := by
  cases i with
  | sta | stx | sty | inc | dec =>
    exact State.store_a _ _ (State.resolve_ne_acc _ (ne_of_mem_of_not_mem (of_decide_eq_true hwf) (by decide)))
  | asl | lsr | rol | ror => exact State.store_a _ _ (State.resolve_ne_acc _ (ne_of_beq_false hi))
  | pha | php => exact State.push8_a _ _
  | jsr => exact State.push16_a _ _
  | brk => exact State.takeTrap_a _ _ _ _
  | rti => exact State.returnFromTrap_a _
  | bpl | bmi | bvc | bvs | bcc | bcs | bne | beq => exact State.branch_a _ _ _
  | lda | txa | tya | adc | sbc | and | ora | eor | pla => cases hi
  | _ => rfl

theorem State.after_x (s : State) {i : Instr} (hi : i.writesX = false) : (s.after i).x = s.x := by
  cases i with
  | sta | stx | sty | inc | dec | asl | lsr | rol | ror => exact State.store_x _ _ _
  | pha | php => exact State.push8_x _ _
  | jsr => exact State.push16_x _ _
  | brk => exact State.takeTrap_x _ _ _ _
  | rti => exact State.returnFromTrap_x _
  | bpl | bmi | bvc | bvs | bcc | bcs | bne | beq => exact State.branch_x _ _ _
  | ldx | tax | tsx | inx | dex => cases hi
  | _ => rfl

theorem State.after_y (s : State) {i : Instr} (hi : i.writesY = false) : (s.after i).y = s.y := by
  cases i with
  | sta | stx | sty | inc | dec | asl | lsr | rol | ror => exact State.store_y _ _ _
  | pha | php => exact State.push8_y _ _
  | jsr => exact State.push16_y _ _
  | brk => exact State.takeTrap_y _ _ _ _
  | rti => exact State.returnFromTrap_y _
  | bpl | bmi | bvc | bvs | bcc | bcs | bne | beq => exact State.branch_y _ _ _
  | ldy | tay | iny | dey => cases hi
  | _ => rfl

theorem State.after_sp (s : State) {i : Instr} (hi : i.writesS = false) : (s.after i).sp = s.sp := by
  cases i with
  | sta | stx | sty | inc | dec | asl | lsr | rol | ror => exact State.store_sp _ _ _
  | bpl | bmi | bvc | bvs | bcc | bcs | bne | beq => exact State.branch_sp _ _ _
  | txs | pha | php | pla | plp | jsr | rts | brk | rti => cases hi
  | _ => rfl

/-- Only an unimplemented opcode halts: no well-formed instruction stores through Immediate. -/
theorem State.after_status (s : State) {i : Instr} {nops : NopSet} (hwf : i.wf nops = true)
    (hi : ∀ op, i ≠ .illegal op) : (s.after i).status = s.status := by
  cases i with
  | sta | stx | sty | inc | dec | asl | lsr | rol | ror =>
    exact State.store_status _ _ (State.resolve_ne_imm _ (ne_of_mem_of_not_mem (of_decide_eq_true hwf) (by decide)))
  | pha | php => exact State.push8_status _ _
  | jsr => exact State.push16_status _ _
  | brk => exact State.takeTrap_status _ _ _ _
  | rti => exact State.returnFromTrap_status _
  | bpl | bmi | bvc | bvs | bcc | bcs | bne | beq => exact State.branch_status _ _ _
  | illegal op => exact absurd rfl (hi op)
  | _ => rfl

/-! ### Flags -/

theorem bitsKept_znFlags (p v : Byte) : bitsKept [1, 7] p (znFlags p v) := fun k hk => by
  simp only [List.mem_cons, List.not_mem_nil, or_false, not_or] at hk
  simp only [getLsbD_znFlags, hk, if_false]

theorem bitsKept_shiftFlags (p : Byte) (c : Bool) (v : Byte) : bitsKept [0, 1, 7] p (shiftFlags p c v) :=
  fun k hk => by
  simp only [List.mem_cons, List.not_mem_nil, or_false, not_or] at hk
  simp only [getLsbD_shiftFlags, hk, if_false]

theorem bitsKept_compareFlags (p r m : Byte) : bitsKept [0, 1, 7] p (compareFlags p r m) := fun k hk => by
  simp only [List.mem_cons, List.not_mem_nil, or_false, not_or] at hk
  simp only [getLsbD_compareFlags, hk, if_false]

theorem bitsKept_bitFlags (p a m : Byte) : bitsKept [1, 7, 6] p (bitFlags p a m) := fun k hk => by
  simp only [List.mem_cons, List.not_mem_nil, or_false, not_or] at hk
  simp only [getLsbD_bitFlags, hk, if_false]

theorem bitsKept_withC (p : Byte) (v : Bool) : bitsKept [0] p (withC p v) := fun k hk => by
  rw [getLsbD_withC, if_neg (List.ne_of_not_mem_cons hk)]

theorem bitsKept_withI (p : Byte) (v : Bool) : bitsKept [2] p (withI p v) := fun k hk => by
  rw [getLsbD_withI, if_neg (List.ne_of_not_mem_cons hk)]

theorem bitsKept_withD (p : Byte) (v : Bool) : bitsKept [3] p (withD p v) := fun k hk => by
  rw [getLsbD_withD, if_neg (List.ne_of_not_mem_cons hk)]

theorem bitsKept_withV (p : Byte) (v : Bool) : bitsKept [6] p (withV p v) := fun k hk => by
  rw [getLsbD_withV, if_neg (List.ne_of_not_mem_cons hk)]

theorem bitsKept_adcFlags (p a m : Byte) : bitsKept [0, 1, 7, 6] p (adcFlags p a m) := fun _ hk =>
  getLsbD_adcFlags_other p a m fun h => hk ((by decide : [0, 1, 6, 7] ⊆ [0, 1, 7, 6]) h)

theorem bitsKept_sbcFlags (p a m : Byte) : bitsKept [0, 1, 7, 6] p (sbcFlags p a m) := fun _ hk =>
  getLsbD_sbcFlags_other p a m fun h => hk ((by decide : [0, 1, 6, 7] ⊆ [0, 1, 7, 6]) h)

/-- Two bytes differ in their eight bits at most. -/
theorem bitsKept_all (p q : Byte) : bitsKept [0, 1, 7, 2, 3, 4, 5, 6] p q := fun k hk => by
  simp only [List.mem_cons, List.not_mem_nil, or_false, not_or] at hk
  have h8 : 8 ≤ k := by omega
  rw [BitVec.getLsbD_of_ge p k h8, BitVec.getLsbD_of_ge q k h8]

/-- The status byte PHP and BRK push, bit by bit: bit 4 set, the rest as in P. -/
theorem getLsbD_pushedWithBreak (p : Byte) (k : Nat) :
    (pushedWithBreak p).getLsbD k = if k = 4 then true else p.getLsbD k := by
  rw [pushedWithBreak, BitVec.getLsbD_or, show (0x10 : Byte) = BitVec.ofNat 8 (2 ^ 4) from rfl,
    getLsbD_mask 4 (by omega)]
  by_cases h : k = 4 <;> simp [h]

@[simp] theorem flagU_pushedWithBreak (p : Byte) : flagU (pushedWithBreak p) = flagU p := by
  rw [flagU, getLsbD_pushedWithBreak]; rfl

@[simp] theorem flagD_pushedWithBreak (p : Byte) : flagD (pushedWithBreak p) = flagD p := by
  rw [flagD, getLsbD_pushedWithBreak]; rfl

theorem bitsKept_of_eq {l : List Nat} {p q : Byte} (h : q = p) : bitsKept l p q := fun k _ => by rw [h]

theorem bitsKept.trans_eq {l : List Nat} {p q r : Byte} (h : bitsKept l p q) (e : r = q) : bitsKept l p r := e ▸ h

end Sys2Proof.Machine

namespace Sys2Proof

/-- The bits of P an instruction may write, from the lists of 10_state.md R20. -/
def Instr.flagBits (i : Instr) : List Nat :=
  (if i.writesC then [0] else []) ++ (if i.writesZN then [1, 7] else []) ++ (if i.writesI then [2] else []) ++
    (if i.writesD then [3] else []) ++ (if i.writesBU then [4, 5] else []) ++ (if i.writesV then [6] else [])

theorem Instr.eq_plp_or_rti_of_writesBU {i : Instr} (h : i.writesBU = true) : i = .plp ∨ i = .rti := by
  cases i with
  | plp => exact .inl rfl
  | rti => exact .inr rfl
  | _ => cases h

end Sys2Proof

namespace Sys2Proof.Machine

/-- An instruction writes no bit of P but those of its flags. -/
theorem State.after_bitsKept (s : State) (i : Instr) : bitsKept i.flagBits s.p (s.after i).p := by
  cases i with
  | lda | ldx | ldy | tax | tay | txa | tya | tsx | and | ora | eor | inx | iny | dex | dey | pla =>
    exact bitsKept_znFlags _ _
  | inc | dec => exact (bitsKept_znFlags _ _).trans_eq (State.store_p _ _ _)
  | adc => exact bitsKept_adcFlags _ _ _
  | sbc => exact bitsKept_sbcFlags _ _ _
  | cmp | cpx | cpy => exact bitsKept_compareFlags _ _ _
  | bit => exact bitsKept_bitFlags _ _ _
  | asl | lsr | rol | ror => exact (bitsKept_shiftFlags _ _ _).trans_eq (State.store_p _ _ _)
  | clc | sec => exact bitsKept_withC _ _
  | cli | sei => exact bitsKept_withI _ _
  | cld | sed => exact bitsKept_withD _ _
  | clv => exact bitsKept_withV _ _
  | brk => exact (bitsKept_withI _ _).trans_eq (State.takeTrap_p _ _ _ _)
  | plp | rti => exact bitsKept_all _ _
  | sta | stx | sty => exact bitsKept_of_eq (State.store_p _ _ _)
  | pha | php => exact bitsKept_of_eq (State.push8_p _ _)
  | jsr => exact bitsKept_of_eq (State.push16_p _ _)
  | bpl | bmi | bvc | bvs | bcc | bcs | bne | beq => exact bitsKept_of_eq (State.branch_p _ _ _)
  | _ => exact bitsKept_of_eq rfl

theorem State.after_flagC (s : State) {i : Instr} (hi : i.writesC = false) : flagC (s.after i).p = flagC s.p :=
  s.after_bitsKept i 0 (by simp [Instr.flagBits, hi])

theorem State.after_flagZ (s : State) {i : Instr} (hi : i.writesZN = false) : flagZ (s.after i).p = flagZ s.p :=
  s.after_bitsKept i 1 (by simp [Instr.flagBits, hi])

theorem State.after_flagI (s : State) {i : Instr} (hi : i.writesI = false) : flagI (s.after i).p = flagI s.p :=
  s.after_bitsKept i 2 (by simp [Instr.flagBits, hi])

theorem State.after_flagD (s : State) {i : Instr} (hi : i.writesD = false) : flagD (s.after i).p = flagD s.p :=
  s.after_bitsKept i 3 (by simp [Instr.flagBits, hi])

theorem State.after_flagB (s : State) {i : Instr} (hi : i.writesBU = false) : flagB (s.after i).p = flagB s.p :=
  s.after_bitsKept i 4 (by simp [Instr.flagBits, hi])

theorem State.after_flagU (s : State) {i : Instr} (hi : i.writesBU = false) : flagU (s.after i).p = flagU s.p :=
  s.after_bitsKept i 5 (by simp [Instr.flagBits, hi])

theorem State.after_flagV (s : State) {i : Instr} (hi : i.writesV = false) : flagV (s.after i).p = flagV s.p :=
  s.after_bitsKept i 6 (by simp [Instr.flagBits, hi])

theorem State.after_flagN (s : State) {i : Instr} (hi : i.writesZN = false) : flagN (s.after i).p = flagN s.p :=
  s.after_bitsKept i 7 (by simp [Instr.flagBits, hi])

/-- Bit 5 of P stays 1: an instruction keeps it, or is PLP or RTI, which set it (10_state.md R17). -/
theorem State.after_flagU_true {s : State} (i : Instr) (h : flagU s.p = true) : flagU (s.after i).p = true := by
  cases hi : i.writesBU with
  | false => rw [s.after_flagU hi, h]
  | true =>
    rcases Instr.eq_plp_or_rti_of_writesBU hi with rfl | rfl
    · exact flagU_pulledStatus _
    · exact flagU_pulledStatus _

/-- Bit 4 of P stays 0: an instruction keeps it, or is PLP or RTI, which clear it (10_state.md R18). -/
theorem State.after_flagB_false {s : State} (i : Instr) (h : flagB s.p = false) : flagB (s.after i).p = false := by
  cases hi : i.writesBU with
  | false => rw [s.after_flagB hi, h]
  | true =>
    rcases Instr.eq_plp_or_rti_of_writesBU hi with rfl | rfl
    · exact flagB_pulledStatus _
    · exact flagB_pulledStatus _

/-! ### Memory and devices: stores alone -/

/-- `t` differs from `s` in registers and status at most. -/
structure State.SameDevices (s t : State) : Prop where
  ram : t.ram = s.ram
  ports : t.ports = s.ports
  videoLog : t.videoLog = s.videoLog
  image : t.image = s.image
  mapper : t.mapper = s.mapper
  nmiPending : t.nmiPending = s.nmiPending
  params : t.params = s.params
  outside : t.outside = s.outside

theorem State.SameDevices.refl (s : State) : s.SameDevices s := by constructor <;> rfl

theorem State.SameDevices.trans {s t u : State} (h : s.SameDevices t) (h' : t.SameDevices u) : s.SameDevices u where
  ram := h'.ram.trans h.ram
  ports := h'.ports.trans h.ports
  videoLog := h'.videoLog.trans h.videoLog
  image := h'.image.trans h.image
  mapper := h'.mapper.trans h.mapper
  nmiPending := h'.nmiPending.trans h.nmiPending
  params := h'.params.trans h.params
  outside := h'.outside.trans h.outside

theorem State.branch_sameDevices (s : State) (c : Bool) (d : Byte) : s.SameDevices (s.branch c d) := by
  cases c <;> constructor <;> rfl

theorem State.returnFromTrap_sameDevices (s : State) : s.SameDevices s.returnFromTrap := by
  rw [State.returnFromTrap_eq]
  constructor <;> rfl

/-- `t` is reached from `s` by CPU stores to the addresses listed, in that order, and by changes of registers and
status before, between and after them. -/
inductive Stores : State → List Word → State → Prop where
  | done {s t : State} (h : s.SameDevices t) : Stores s [] t
  | store {s u t : State} {a : Word} {l : List Word} (h : s.SameDevices u) (v : Byte)
      (rest : Stores (u.memWrite a v) l t) : Stores s (a :: l) t

/-- Changes of registers first. -/
theorem Stores.of_sameDevices {s t u : State} {l : List Word} (h : s.SameDevices t) (h' : Stores t l u) :
    Stores s l u := by
  cases h' with
  | done ht => exact .done (h.trans ht)
  | store ht v rest => exact .store (h.trans ht) v rest

theorem Stores.append {s t u : State} {l l' : List Word} (h : Stores s l t) (h' : Stores t l' u) :
    Stores s (l ++ l') u := by
  induction h with
  | done hs => exact h'.of_sameDevices hs
  | store hs v _ ih => exact .store hs v (ih h')

/-- Changes of registers last. -/
theorem Stores.regs {s t u : State} {l : List Word} (h : Stores s l t) (h' : t.SameDevices u) : Stores s l u :=
  List.append_nil l ▸ h.append (.done h')

theorem stores_memWrite (s : State) (a : Word) (v : Byte) : Stores s [a] (s.memWrite a v) :=
  .store (.refl s) v (.done (.refl _))

/-- Storing through operand `m` after a change of registers. -/
theorem stores_store {s u : State} (h : s.SameDevices u) (m : Operand) (v : Byte) :
    Stores s ((s.advancePast m).storeAddress m) (u.store ((s.advancePast m).resolve m) v) := by
  refine .of_sameDevices h ?_
  unfold State.storeAddress
  cases (s.advancePast m).resolve m with
  | acc | imm b => exact .done (by constructor <;> rfl)
  | mem ea => exact stores_memWrite u ea v

theorem stores_push8 (s : State) (v : Byte) : Stores s [stackAddress s.sp] (s.push8 v) :=
  (stores_memWrite s _ v).regs (by constructor <;> rfl)

theorem stores_push16 (s : State) (w : Word) :
    Stores s [stackAddress s.sp, stackAddress (s.sp - 1)] (s.push16 w) := by
  have h := (stores_push8 s (hiByte w)).append (stores_push8 _ (loByte w))
  rwa [State.push8_sp] at h

theorem stores_takeTrap (s : State) (ret : Word) (status : Byte) (vector : Word) :
    Stores s [stackAddress s.sp, stackAddress (s.sp - 1), stackAddress (s.sp - 1 - 1)]
      (s.takeTrap ret status vector) := by
  have h := (stores_push16 s ret).append (stores_push8 _ status)
  rw [State.push16_sp] at h
  exact h.regs (by constructor <;> rfl)

/-- All an instruction does to memory and devices is its stores, in order. -/
theorem stores_after (s : State) (i : Instr) : Stores s (s.storesOf i) (s.after i) := by
  cases i with
  | sta m | stx m | sty m | inc m | dec m | asl m | lsr m | rol m | ror m =>
    exact stores_store (by constructor <;> rfl) m _
  | pha | php => exact (stores_push8 (s.advance 1) _).of_sameDevices (by constructor <;> rfl)
  | jsr => exact ((stores_push16 (s.advance 3) _).regs (by constructor <;> rfl)).of_sameDevices (by constructor <;> rfl)
  | brk => exact (stores_takeTrap (s.advance 1) _ _ _).of_sameDevices (by constructor <;> rfl)
  | bpl | bmi | bvc | bvs | bcc | bcs | bne | beq =>
    exact .done (.trans (t := s.advance 2) (by constructor <;> rfl) (State.branch_sameDevices _ _ _))
  | rti => exact .done (.trans (t := s.advance 1) (by constructor <;> rfl) (State.returnFromTrap_sameDevices _))
  | _ => exact .done (by constructor <;> rfl)

/-- The variant never changes. -/
@[simp] theorem State.memWrite_identify (s : State) (a : Word) (v : Byte) :
    (s.memWrite a v).mapper.identify = s.mapper.identify := by
  rcases s.memWrite_cases a v with ⟨_, e⟩ | ⟨_, e⟩ <;> rw [e]
  · rw [State.dmaBytes_mapper]
  · rcases s.busStore_cases a v with ⟨_, e⟩ | ⟨_, _, e⟩ | ⟨_, _, e⟩ | ⟨_, e⟩ <;> rw [e]
    · rfl
    · exact Mapper.identify_prgStore _ _ _

/-- What no store changes. -/
theorem Stores.configuration {s t : State} {l : List Word} (h : Stores s l t) :
    t.image = s.image ∧ t.params = s.params ∧ t.nmiPending = s.nmiPending ∧ t.outside = s.outside ∧
      t.mapper.identify = s.mapper.identify := by
  induction h with
  | done hs => exact ⟨hs.image, hs.params, hs.nmiPending, hs.outside, congrArg _ hs.mapper⟩
  | store hs v _ ih =>
    simpa only [State.memWrite_image, State.memWrite_params, State.memWrite_nmiPending, State.memWrite_outside,
      State.memWrite_identify, hs.image, hs.params, hs.nmiPending, hs.outside, hs.mapper] using ih

/-- A store from 0x2000 up leaves RAM alone. -/
theorem State.memWrite_ram {a : Word} (s : State) (v : Byte) (ha : 0x2000 ≤ a.toNat) :
    (s.memWrite a v).ram = s.ram := by
  rcases s.memWrite_cases a v with ⟨_, e⟩ | ⟨_, e⟩ <;> rw [e]
  · exact State.dmaBytes_ram _ _ _
  · rcases s.busStore_cases a v with ⟨h, _⟩ | ⟨_, _, e⟩ | ⟨_, _, e⟩ | ⟨_, e⟩
    · omega
    · rw [e, State.vregWrite]
    · rw [e]
    · rw [e]

theorem Stores.ram {s t : State} {l : List Word} (h : Stores s l t) (hl : ∀ a ∈ l, 0x2000 ≤ a.toNat) :
    t.ram = s.ram := by
  induction h with
  | done hs => exact hs.ram
  | store hs v _ ih =>
    obtain ⟨ha, hl⟩ := List.forall_mem_cons.1 hl
    rw [ih hl, State.memWrite_ram _ v ha, hs.ram]

/-- The addresses no device takes a store at: RAM and open bus but for the DMA trigger (20_memory.md R43, R53). -/
def noDevice (a : Word) : Prop :=
  a.toNat < 0x2000 ∨ 0x4000 ≤ a.toNat ∧ a.toNat < 0x6000 ∧ a.toNat ≠ 0x4014

theorem State.memWrite_devices {a : Word} (s : State) (v : Byte) (ha : noDevice a) :
    (s.memWrite a v).ports = s.ports ∧ (s.memWrite a v).videoLog = s.videoLog ∧
      (s.memWrite a v).mapper = s.mapper := by
  unfold noDevice at ha
  rcases s.memWrite_cases a v with ⟨e, _⟩ | ⟨_, e⟩
  · rw [e] at ha
    exact absurd ha (by decide)
  · rcases s.busStore_cases a v with ⟨_, e'⟩ | ⟨_, _, _⟩ | ⟨_, _, e'⟩ | ⟨_, _⟩
    · rw [e, e']; exact ⟨rfl, rfl, rfl⟩
    · omega
    · rw [e, e']; exact ⟨rfl, rfl, rfl⟩
    · omega

theorem Stores.devices {s t : State} {l : List Word} (h : Stores s l t) (hl : ∀ a ∈ l, noDevice a) :
    t.ports = s.ports ∧ t.videoLog = s.videoLog ∧ t.mapper = s.mapper := by
  induction h with
  | done hs => exact ⟨hs.ports, hs.videoLog, hs.mapper⟩
  | @store s u _ _ _ hs v _ ih =>
    obtain ⟨ha, hl⟩ := List.forall_mem_cons.1 hl
    obtain ⟨hp, hv, hm⟩ := u.memWrite_devices v ha
    obtain ⟨hp', hv', hm'⟩ := ih hl
    exact ⟨hp'.trans (hp.trans hs.ports), hv'.trans (hv.trans hs.videoLog), hm'.trans (hm.trans hs.mapper)⟩

end Sys2Proof.Machine
end

section
/-! PROOF. The invariant is kept by stores, by a taken NMI and by what happens between two steps, hence by every step;
construction and the status byte (10_state.md R17, R18, R25 to R29). -/

namespace Sys2Proof.Machine

theorem State.inv_iff (s : State) :
    s.inv = true ↔ flagU s.p = true ∧ s.ramLegal = true ∧ s.mapper.legal = true ∧ s.imageLegal = true := by
  simp only [State.inv, State.ramLegal, Bool.and_eq_true, and_assoc]

theorem State.wf_ram_of_inv (s : State) (h : s.inv = true) : Memory.wf s.ram = true := by
  obtain ⟨_, hr, _, _⟩ := s.inv_iff.1 h
  exact (Bool.and_eq_true_iff.1 hr).1

/-- Stores keep RAM and the Mapper legal, the DMA burst included. -/
theorem Stores.legal {s t : State} {l : List Word} (h : Stores s l t) (hr : s.ramLegal = true)
    (hm : s.mapper.legal = true) : t.ramLegal = true ∧ t.mapper.legal = true := by
  induction h with
  | done hs =>
    rw [State.ramLegal, hs.ram, hs.mapper]
    exact ⟨hr, hm⟩
  | @store s u _ a _ hs v _ ih =>
    have hu : u.ramLegal = true := by rwa [State.ramLegal, hs.ram]
    obtain ⟨hr', hm', _⟩ := u.legal_memWrite a v hu (by rwa [hs.mapper])
    exact ih hr' hm'

/-- The image's shape is read from the image and the variant alone. -/
theorem State.imageLegal_congr {s t : State} (hi : t.image = s.image)
    (hk : t.mapper.identify = s.mapper.identify) : t.imageLegal = s.imageLegal := by
  simp only [State.imageLegal, hi, hk]

/-- Stores and changes of registers keep the invariant when bit 5 of P is 1 at their end. -/
theorem Stores.inv {s t : State} {l : List Word} (h : Stores s l t) (hs : s.inv = true) (hp : flagU t.p = true) :
    t.inv = true := by
  obtain ⟨_, hr, hm, hi⟩ := s.inv_iff.1 hs
  obtain ⟨himage, _, _, _, hkind⟩ := h.configuration
  obtain ⟨hr', hm'⟩ := h.legal hr hm
  exact t.inv_iff.2 ⟨hp, hr', hm', (State.imageLegal_congr himage hkind).trans hi⟩

theorem State.inv_after {s : State} (i : Instr) (h : s.inv = true) : (s.after i).inv = true :=
  (stores_after s i).inv h (s.after_flagU_true i (s.inv_iff.1 h).1)

theorem State.takeNmi_p (s : State) : s.takeNmi.p = withI s.p true := State.takeTrap_p _ _ _ _

theorem State.inv_takeNmi {s : State} (h : s.inv = true) : s.takeNmi.inv = true := by
  have hst := stores_takeTrap { s with nmiPending := false } s.pc (pushedWithoutBreak s.p) Config.nmiVector
  refine hst.inv h ?_
  rw [State.takeTrap_p, flagU_withI]
  exact (s.inv_iff.1 h).1

/-- What happens outside between two steps touches nothing the invariant speaks of. -/
theorem State.inv_boundary (s : State) : s.boundary.inv = s.inv := by
  rw [State.boundary_eq]
  rfl

theorem State.boundary_p (s : State) : s.boundary.p = s.p := by
  rw [State.boundary_eq]

/-- Settles O12: a step is the boundary and then an NMI or one instruction, and each keeps the invariant. -/
theorem stepKeepsInvariant : Obligations.StepKeepsInvariant := by
  intro s t hs h
  have hb : s.boundary.inv = true := s.inv_boundary.trans hs
  rcases step_eq_next h with rfl | rfl
  · exact State.inv_takeNmi hb
  · exact State.inv_after _ hb

/-- Settles O13, by evaluation. -/
theorem resetMeetsInvariant : Obligations.ResetMeetsInvariant := ⟨by decide, by decide⟩

/-- A construction that succeeds had admissible parameters and a variant its image fits; the machine is as given. -/
theorem construct_eq_ok {c : Construction} {s : State} (h : construct c = .ok s) :
    c.admissible = true ∧ ∃ kind, c.kind = .ok kind ∧ c.image.fits kind = true ∧
      s = {
        a := c.initA, x := c.initX, y := c.initY, sp := c.initS, p := c.initP, pc := c.initPc
        ram := c.ramInit, ports := c.vrInit, videoLog := [], image := c.image
        mapper := Mapper.constructed c.chrRamInit kind
        status := .running, nmiPending := false, params := c.params, outside := c.outside } := by
  unfold construct at h
  cases ha : c.admissible with
  | false => rw [ha] at h; cases h
  | true =>
    cases hk : c.kind with
    | error why => rw [ha, hk] at h; cases h
    | ok kind =>
      cases hf : c.image.fits kind with
      | false => simp [ha, hk, hf] at h
      | true =>
        simp only [ha, hk, hf, Bool.not_true, Bool.false_eq_true, if_false, Except.ok.injEq] at h
        exact ⟨rfl, kind, rfl, hf, h.symm⟩

theorem Construction.flagU_initP {c : Construction} (h : c.admissible = true) : flagU c.initP = true := by
  simp only [Construction.admissible, Bool.and_eq_true, and_assoc] at h
  exact h.1

/-- Settles O17: only PLP and RTI write bit 5, which they set; a pushed byte is P with bit 4 set. -/
theorem statusBit5AlwaysOne : Obligations.StatusBit5AlwaysOne := by
  refine ⟨fun c s h => ?_, fun i s t hs h => ?_, fun s => ?_, fun s hs hinv => ?_⟩
  · obtain ⟨ha, _, _, _, rfl⟩ := construct_eq_ok h
    exact Construction.flagU_initP ha
  · rw [← exec_eq_next_iff.1 h]
    exact s.after_flagU_true i hs
  · exact ⟨_, _, rfl, rfl, flagU_pulledStatus _, flagU_pulledStatus _⟩
  · have hram : Memory.wf (s.advance 1).ram = true := s.wf_ram_of_inv hinv
    refine ⟨_, _, rfl, rfl, ?_, ?_⟩
    · rw [State.push8_sp, sub_add_cancel, State.memRead_push8 _ hram, flagU_pushedWithBreak]
      exact hs
    · rw [State.takeTrap_sp, sub_add_cancel, State.memRead_takeTrap _ _ _ hram, flagU_pushedWithBreak]
      exact hs

/-- Settles O18: only PLP and RTI write bit 4, which they clear; an NMI keeps it. -/
theorem breakFlagOnlyFalls : Obligations.BreakFlagOnlyFalls := by
  refine ⟨fun i s t h hplp hrti => ?_, fun s => ?_, fun s t hs h => ?_⟩
  · rw [← exec_eq_next_iff.1 h]
    refine s.after_flagB (Bool.eq_false_iff.2 fun hi => ?_)
    rcases Instr.eq_plp_or_rti_of_writesBU hi with rfl | rfl
    · exact hplp rfl
    · exact hrti rfl
  · exact ⟨_, _, rfl, rfl, flagB_pulledStatus _, flagB_pulledStatus _⟩
  · have hb : flagB s.boundary.p = false := by rwa [State.boundary_p]
    rcases step_eq_next h with rfl | rfl
    · rwa [State.takeNmi_p, flagB_withI]
    · exact State.after_flagB_false _ hb

end Sys2Proof.Machine
end

section
/-! PROOF. Who writes what, where PC goes, what a Halted machine does, and that P.D changes no arithmetic
(10_state.md R14, R20, R22, R33, R36). -/

namespace Sys2Proof.Machine

/-- Settles O6: no meaning but a control transfer touches PC after it has passed the instruction. -/
theorem instructionsAdvancePc : Obligations.InstructionsAdvancePc := by
  intro i s hi
  refine ⟨_, exec_eq_next_after i s, ?_⟩
  rw [s.after_pc hi, BitVec.toNat_add, BitVec.toNat_ofNat, Nat.add_mod_mod]

/-- Settles O7: the Halted arms of `step` and of the reset operation, and the cases of a step and of a CHR store. -/
theorem haltedMachineTakesNoStep : Obligations.HaltedMachineTakesNoStep := by
  refine ⟨fun s why c v hs => ⟨?_, ?_, ?_⟩, fun s => ?_⟩
  · rw [step, hs]
  · rw [State.performReset, hs]
  · rcases s.chrStore_cases c v with e | ⟨_, hr, _⟩
    · exact e
    · cases hs.symm.trans hr
  · rcases step_cases s with ⟨why, hs, _⟩ | ⟨hs, _, e⟩ | ⟨hs, _, e⟩
    · exact .inr ⟨why, hs⟩
    · exact .inl ⟨hs, _, e⟩
    · exact .inl ⟨hs, _, e.trans (exec_eq_next_after _ _)⟩

/-- Settles O19, register by register. -/
theorem registerWriters : Obligations.RegisterWriters := by
  intro i s t hwf h
  rw [← exec_eq_next_iff.1 h]
  exact ⟨s.after_a hwf, s.after_x, s.after_y, s.after_sp⟩

/-- Settles O20, flag by flag. -/
theorem flagWriters : Obligations.FlagWriters := by
  intro i s t h
  rw [← exec_eq_next_iff.1 h]
  exact ⟨s.after_flagC, fun hi => ⟨s.after_flagZ hi, s.after_flagN hi⟩, s.after_flagI, s.after_flagD,
    fun hi => ⟨s.after_flagB hi, s.after_flagU hi⟩, s.after_flagV⟩

/-- Settles O22: an instruction is its stores, and each store stays within its range. -/
theorem deviceAndConfigurationFrame : Obligations.DeviceAndConfigurationFrame := by
  intro i s t h
  rw [← exec_eq_next_iff.1 h]
  have hst := stores_after s i
  obtain ⟨himage, hparams, hnmi, houtside, hkind⟩ := hst.configuration
  exact ⟨himage, hparams, hnmi, houtside, hkind, hst.devices, hst.ram, s.after_status⟩

/-! ### The Decimal flag -/

/-- Replacements of different bits commute. -/
theorem withBits_comm {m m' : Byte} (h : m &&& m' = 0) (p : Byte) (v v' : Bool) :
    withBits (withBits p m' v') m v = withBits (withBits p m v) m' v' := by
  apply BitVec.eq_of_getLsbD_eq
  intro k _
  have hk : (m.getLsbD k && m'.getLsbD k) = false := by rw [← BitVec.getLsbD_and, h]; exact BitVec.getLsbD_zero
  simp only [getLsbD_withBits]
  cases hm : m.getLsbD k with
  | false => rfl
  | true =>
    have hm' : m'.getLsbD k = false := by simpa [hm] using hk
    rw [hm']
    rfl

theorem withC_withD (p : Byte) (c d : Bool) : withC (withD p d) c = withD (withC p c) d :=
  withBits_comm (by decide) p c d

theorem withV_withD (p : Byte) (v d : Bool) : withV (withD p d) v = withD (withV p v) d :=
  withBits_comm (by decide) p v d

theorem znFlags_withD (p v : Byte) (d : Bool) : znFlags (withD p d) v = withD (znFlags p v) d :=
  (congrArg (withN · _) (withBits_comm (by decide) p _ d)).trans (withBits_comm (by decide) _ _ d)

/-- ADC neither reads nor writes P.D. -/
theorem adcFlags_withD (p a m : Byte) (d : Bool) : adcFlags (withD p d) a m = withD (adcFlags p a m) d := by
  simp only [adcFlags, flagC_withD, withC_withD, withV_withD, znFlags_withD]

/-- SBC neither reads nor writes P.D. -/
theorem sbcFlags_withD (p a m : Byte) (d : Bool) : sbcFlags (withD p d) a m = withD (sbcFlags p a m) d := by
  simp only [sbcFlags, flagC_withD, withC_withD, withV_withD, znFlags_withD]

/-- A data operand does not depend on P. -/
@[simp] theorem State.operand_setP (s : State) (p : Byte) (m : Operand) : (s.setP p).operand m = s.operand m := by
  cases m <;> rfl

/-- Settles O43: the flag computations of ADC and SBC commute with any change of P.D. -/
theorem decimalFlagHasNoEffect : Obligations.DecimalFlagHasNoEffect := by
  refine ⟨fun s => ?_, fun s hram => ?_, fun s m d => ?_⟩
  · exact ⟨_, _, rfl, rfl, flagD_withD _ _, flagD_withD _ _⟩
  · have hpushed := State.memRead_push8 (s := s.advance 1) (pushedWithBreak s.p) hram
    exact ⟨_, _, rfl, rfl, (congrArg flagD hpushed).trans (flagD_pushedWithBreak _), flagD_pulledStatus _⟩
  · refine ⟨_, _, rfl, rfl, ?_, ?_, s.after_flagD (i := .adc m) rfl, s.after_flagD (i := .sbc m) rfl⟩
    · simp only [exec, execAdc, State.operand_advancePast, State.operand_setP, State.advancePast_a,
        State.advancePast_p, State.setP_a, State.setP_p, flagC_withD, adcFlags_withD]
      rfl
    · simp only [exec, execSbc, State.operand_advancePast, State.operand_setP, State.advancePast_a,
        State.advancePast_p, State.setP_a, State.setP_p, flagC_withD, sbcFlags_withD]
      rfl

end Sys2Proof.Machine
end

section
/-! PROOF. The Bus by range: which loads a store can change, the RAM mirrors, the ports, open bus and the word loads
(20_memory.md R42 to R58). -/

namespace Sys2Proof.Machine

/-! ### Stores by range -/

theorem State.busStore_ram {a : Word} (s : State) (v : Byte) (h : a.toNat < 0x2000) :
    s.busStore a v = { s with ram := Memory.write s.ram (ramIndex a) v } := if_pos h

theorem State.busStore_ports {a : Word} (s : State) (v : Byte) (h : 0x2000 ≤ a.toNat) (h' : a.toNat < 0x4000) :
    s.busStore a v = s.vregWrite (portOf a) v := (if_neg h.not_gt).trans (if_pos h')

theorem State.busStore_openBus {a : Word} (s : State) (v : Byte) (h : 0x4000 ≤ a.toNat) (h' : a.toNat < 0x6000) :
    s.busStore a v = s := by
  rcases s.busStore_cases a v with ⟨_, _⟩ | ⟨_, _, _⟩ | ⟨_, _, e⟩ | ⟨_, _⟩
  · omega
  · omega
  · exact e
  · omega

theorem State.busStore_mapper {a : Word} (s : State) (v : Byte) (h : 0x6000 ≤ a.toNat) :
    s.busStore a v = { s with mapper := s.mapper.prgStore a v } := by
  rcases s.busStore_cases a v with ⟨_, _⟩ | ⟨_, _, _⟩ | ⟨_, _, _⟩ | ⟨_, e⟩
  · omega
  · omega
  · omega
  · exact e

theorem dmaTrigger_iff (a : Word) : a = Config.dmaTrigger ↔ a.toNat = 0x4014 := BitVec.toNat_inj.symm

/-- Away from the DMA trigger a CPU store is a bus store (20_memory.md R53). -/
theorem State.memWrite_eq_busStore {a : Word} (s : State) (v : Byte) (h : a.toNat ≠ 0x4014) :
    s.memWrite a v = s.busStore a v := if_neg fun e => h ((dmaTrigger_iff a).1 e)

/-! ### Which loads a store can change -/

/-- A load of `b` is unchanged when what stands behind `b`'s own range is. -/
theorem State.memRead_eq_of_range {s t : State} {b : Word}
    (hram : b.toNat < 0x2000 → Memory.read t.ram (ramIndex b) = Memory.read s.ram (ramIndex b))
    (hports : 0x2000 ≤ b.toNat → b.toNat < 0x4000 → t.ports.latch (portOf b) = s.ports.latch (portOf b))
    (hmapper : 0x6000 ≤ b.toNat → t.prgLoad b = s.prgLoad b) : t.memRead b = s.memRead b := by
  unfold State.memRead State.busLoad VideoPorts.read
  split
  · exact hram ‹_›
  · split
    · rw [hports (by omega) ‹_›]
    · split
      · rfl
      · exact hmapper (by omega)

section
variable {s : State} {a b : Word} (ha : 0x6000 ≤ a.toNat)
include ha

theorem State.storeReaches_mmc1 {m : Mmc1} (hm : s.mapper = .mmc1 m) :
    s.storeReaches a b = (decide (0x8000 ≤ a.toNat) && decide (0x8000 ≤ b.toNat)) := by
  have h : a ≠ Config.dmaTrigger := fun e => by rw [dmaTrigger_iff] at e; omega
  rw [State.storeReaches, if_neg h, if_neg (by omega), if_neg (by omega), if_neg (by omega), hm]

theorem State.storeReaches_test {scratch : Memory} (hm : s.mapper = .test scratch) :
    s.storeReaches a b = (decide (a.toNat < 0x8000) && decide (b = a)) := by
  have h : a ≠ Config.dmaTrigger := fun e => by rw [dmaTrigger_iff] at e; omega
  rw [State.storeReaches, if_neg h, if_neg (by omega), if_neg (by omega), if_neg (by omega), hm]

/-- A store to the Mapper's range and a load of it: SCRATCH byte by byte, the MMC1-class banks from 0x8000 up. -/
theorem State.prgLoad_prgStore (v : Byte) (hb : 0x6000 ≤ b.toNat) (h : s.storeReaches a b = false) :
    State.prgLoad { s with mapper := s.mapper.prgStore a v } b = s.prgLoad b := by
  unfold State.prgLoad
  cases hm : s.mapper with
  | nrom => rfl
  | mmc1 m =>
    simp only [State.storeReaches_mmc1 ha hm, Bool.and_eq_false_iff, decide_eq_false_iff_not, not_le] at h
    by_cases hlow : a.toNat < 0x8000
    · simp only [Mapper.prgStore, hlow, if_true]
    · simp only [Mapper.prgStore, hlow, if_false, h.resolve_left hlow, if_true]
  | test scratch =>
    simp only [State.storeReaches_test ha hm, Bool.and_eq_false_iff, decide_eq_false_iff_not] at h
    by_cases hlow : a.toNat < 0x8000
    · have hne : b.toNat ≠ a.toNat := fun e => h.elim (absurd hlow) (absurd (BitVec.eq_of_toNat_eq e))
      have hi : scratchIndex b ≠ scratchIndex a := by unfold scratchIndex; omega
      simp only [Mapper.prgStore, hlow, if_true, Memory.read_write_other v hi]
    · simp only [Mapper.prgStore, hlow, if_false]

end

/-- A CPU store leaves every load it does not reach as it was. -/
theorem State.memRead_memWrite {s : State} {a b : Word} (v : Byte) (h : s.storeReaches a b = false) :
    (s.memWrite a v).memRead b = s.memRead b := by
  rcases s.memWrite_cases a v with ⟨ha, e⟩ | ⟨ha, e⟩
  · simp only [State.storeReaches, ha, if_true, Bool.and_eq_false_iff, decide_eq_false_iff_not] at h
    rw [e]
    refine State.memRead_eq_of_range (fun _ => by rw [State.dmaBytes_ram]) (fun h1 h2 => ?_) (fun _ => ?_)
    · refine State.dmaBytes_latch _ _ _ fun hp => ?_
      have := (portOf_eq_iff b _).1 hp
      exact h.elim (fun h => h.elim (absurd h1) (absurd h2)) (absurd this)
    · rw [State.prgLoad, State.dmaBytes_mapper, State.dmaBytes_image]; rfl
  · rcases s.busStore_cases a v with ⟨h1, e'⟩ | ⟨h1, h2, e'⟩ | ⟨_, _, e'⟩ | ⟨h1, e'⟩ <;> rw [e, e']
    · simp only [State.storeReaches, ha, h1, if_true, if_false, Bool.and_eq_false_iff, decide_eq_false_iff_not] at h
      refine State.memRead_eq_of_range (fun hb => Memory.read_write_other v ?_) (fun _ _ => rfl) (fun _ => rfl)
      rw [ramIndex_eq, ramIndex_eq]
      exact h.resolve_left (absurd hb)
    · simp only [State.storeReaches, ha, h1.not_gt, h2, if_true, if_false, Bool.and_eq_false_iff,
        decide_eq_false_iff_not] at h
      refine State.memRead_eq_of_range (fun _ => rfl) (fun hb hb' => ?_) (fun _ => rfl)
      refine (VideoPorts.latch_write _ _ _ _).trans (if_neg fun hp => ?_)
      have : b.toNat % 8 = a.toNat % 8 := ((portOf_eq_iff b _).1 hp.1).trans ((portOf_eq_iff a _).1 rfl).symm
      exact h.elim (fun h => h.elim (absurd hb) (absurd hb')) (absurd this)
    · exact State.memRead_eq_of_range (fun _ => rfl) (fun _ _ => rfl)
        (fun hb => State.prgLoad_prgStore h1 v hb h)

/-- What a store reaches depends on the variant alone. -/
theorem State.storeReaches_congr {s t : State} (h : t.mapper.identify = s.mapper.identify) (a b : Word) :
    t.storeReaches a b = s.storeReaches a b := by
  unfold State.storeReaches
  cases hs : s.mapper <;> cases ht : t.mapper <;> simp [hs, ht, Mapper.identify] at h ⊢

theorem Stores.memRead {s t : State} {l : List Word} {b : Word} (h : Stores s l t)
    (hl : ∀ a ∈ l, s.storeReaches a b = false) : t.memRead b = s.memRead b := by
  induction h with
  | done hs => exact State.memRead_congr hs.ram hs.ports hs.image hs.mapper b
  | @store s u t a l hs v _ ih =>
    have hu : u.mapper.identify = s.mapper.identify := congrArg _ hs.mapper
    obtain ⟨ha, hl⟩ := List.forall_mem_cons.1 hl
    calc t.memRead b = (u.memWrite a v).memRead b :=
          ih fun a' ha' => (State.storeReaches_congr ((u.memWrite_identify a v).trans hu) a' b).trans (hl a' ha')
      _ = u.memRead b := State.memRead_memWrite v ((State.storeReaches_congr hu a b).trans ha)
      _ = s.memRead b := State.memRead_congr hs.ram hs.ports hs.image hs.mapper b

/-- Settles O21: an instruction is its stores, and a store changes the loads it reaches alone. -/
theorem loadsUnchangedOutsideStores : Obligations.LoadsUnchangedOutsideStores := by
  intro i s t h b hb
  rw [← exec_eq_next_iff.1 h]
  exact (stores_after s i).memRead hb

/-! ### RAM mirrors, open bus, ports and word loads -/

/-- Settles O23: mirrors have one index in RAM. -/
theorem ramMirrors : Obligations.RamMirrors := by
  intro s a b v hwf ha hb hab
  have hi : ramIndex b = ramIndex a := by rw [ramIndex_eq, ramIndex_eq, hab]
  rw [State.busStore_ram s v ha, State.busLoad_ram hb, State.busLoad_ram hb, State.busLoad_ram ha, hi]
  exact ⟨rfl, Memory.read_write_same _ v hwf⟩

/-- Settles O24 by the range of the address. -/
theorem openBusReadsZeroAndIgnoresStores : Obligations.OpenBusReadsZeroAndIgnoresStores :=
  fun s _ v h h' => ⟨State.busLoad_openBus h h', s.busStore_openBus v h h'⟩

theorem index_portOf (a : Word) : (portOf a).index = a.toNat % 8 := ((portOf_eq_iff a _).1 rfl).symm

theorem portOf_eq_status_iff (a : Word) : portOf a = .status ↔ a.toNat % 8 = 2 := portOf_eq_iff a .status

theorem Port.readable_iff (i : Port) : i.readable = true ↔ i.index = 2 ∨ i.index = 4 ∨ i.index = 7 := by
  cases i <;> decide

/-- Settles O25: the port's index decides whether a load gives its latch and whether a store replaces it. -/
theorem portLoadsAndStores : Obligations.PortLoadsAndStores := by
  intro s a v h h'
  refine ⟨index_portOf a, ?_, _, rfl, ?_, fun i => ?_⟩
  · simp only [State.busLoad_ports h h', VideoPorts.read, Port.readable_iff, index_portOf]
  · rw [State.busStore_ports s v h h']; rfl
  · simp only [State.busStore_ports s v h h', ne_eq, ← portOf_eq_status_iff]
    exact VideoPorts.latch_write _ _ _ _

theorem zext16_eq_ofNat (b : Byte) : zext16 b = BitVec.ofNat 16 b.toNat := (BitVec.ofNat_toNat 16 b).symm

/-- Settles O28: the second address wraps at 8 bits or at 16. -/
theorem wordLoadsWrap : Obligations.WordLoadsWrap := by
  refine ⟨fun s b => ?_, fun s a => ?_⟩
  · have hnext : (b + 1).toNat = (b.toNat + 1) % 0x100 := BitVec.toNat_add b 1
    rw [State.toNat_zpWord, zext16_eq_ofNat, zext16_eq_ofNat, hnext, Nat.add_comm, Nat.mul_comm]
  · have hnext : a + 1 = BitVec.ofNat 16 ((a.toNat + 1) % 0x10000) :=
      BitVec.eq_of_toNat_eq (by simp [BitVec.toNat_add])
    rw [State.toNat_memReadWord, hnext, Nat.add_comm, Nat.mul_comm]

end Sys2Proof.Machine
end

section
/-! PROOF. The DMA burst and the CPU store, range by range (20_memory.md R43, R53, R54, R59). -/

namespace Sys2Proof.Machine

/-! ### The burst -/

theorem toNat_wordOf_ofNat (hh : Byte) {i : Nat} (hi : i < 256) :
    (wordOf hh (BitVec.ofNat 8 i)).toNat = hh.toNat * 256 + i := by
  rw [toNat_wordOf, BitVec.toNat_ofNat, Nat.mod_eq_of_lt hi]

/-- Byte `i` of a page is behind port 4 exactly when the page is in the port range and `i` is 4 modulo 8. -/
theorem portOf_page (hh : Byte) {i : Nat} (hi : i < 256) {p : Port} :
    portOf (wordOf hh (BitVec.ofNat 8 i)) = p ↔ i % 8 = p.index := by
  rw [portOf_eq_iff, toNat_wordOf_ofNat hh hi]
  omega

/-- Outside port 4 the burst loads what a load gave before it. -/
theorem State.burstByte_eq_memRead {s : State} {hh : Byte} {i : Nat}
    (h : ¬ (0x20 ≤ hh.toNat ∧ hh.toNat < 0x40 ∧ i % 8 = 4)) :
    s.burstByte hh i = s.memRead (wordOf hh (BitVec.ofNat 8 i)) := if_neg h

/-- Port 3, which a burst from the port range loads just before port 4, reads 0x00 (decision D13). -/
theorem State.burstByte_port3 {s : State} {hh : Byte} {i : Nat} (hi : i < 256) (h : 0x20 ≤ hh.toNat)
    (h' : hh.toNat < 0x40) (h3 : i % 8 = 3) : s.burstByte hh i = 0x00 := by
  have ha := toNat_wordOf_ofNat hh hi
  have hp : portOf (wordOf hh (BitVec.ofNat 8 i)) = .oamAddress := (portOf_page hh hi).2 h3
  rw [State.burstByte_eq_memRead (by omega), State.memRead, State.busLoad_ports (by omega) (by omega), hp]
  rfl

/-- The load of byte `n + 1` of a burst, with byte `n` in the OAM data latch. -/
theorem State.memRead_in_burst (s : State) (hh : Byte) {n : Nat} (hn : n + 1 < 256) (log : List VideoWrite) :
    State.memRead { s with ports := { s.ports with oamData := s.burstByte hh n }, videoLog := log }
      (wordOf hh (BitVec.ofNat 8 (n + 1))) = s.burstByte hh (n + 1) := by
  have ha := toNat_wordOf_ofNat hh hn
  by_cases h : 0x20 ≤ hh.toNat ∧ hh.toNat < 0x40 ∧ (n + 1) % 8 = 4
  · obtain ⟨h1, h2, h4⟩ := h
    have hp : portOf (wordOf hh (BitVec.ofNat 8 (n + 1))) = .oamData := (portOf_page hh hn).2 h4
    rw [State.memRead, State.busLoad_ports (by omega) (by omega), hp]
    exact (State.burstByte_port3 (by omega) h1 h2 (by omega)).trans (if_pos ⟨h1, h2, h4⟩).symm
  · rw [State.burstByte_eq_memRead h]
    refine State.memRead_eq_of_range (fun _ => rfl) (fun h1 h2 => ?_) (fun _ => rfl)
    have hp : portOf (wordOf hh (BitVec.ofNat 8 (n + 1))) ≠ .oamData := fun e =>
      h ⟨by omega, by omega, (portOf_page hh hn).1 e⟩
    exact (VideoPorts.latch_write s.ports .oamData _ _).trans (if_neg fun e => hp e.1)

/-- The events of the first `n` bytes of a burst, newest first. -/
def State.burstEvents (s : State) (hh : Byte) (n : Nat) : List VideoWrite :=
  (List.range n).reverse.map fun i => { port := .oamData, value := s.burstByte hh i }

theorem State.burstEvents_succ (s : State) (hh : Byte) (n : Nat) :
    s.burstEvents hh (n + 1) = { port := .oamData, value := s.burstByte hh n } :: s.burstEvents hh n := by
  simp only [State.burstEvents, List.range_succ, List.reverse_concat, List.map_cons]

/-- All the first `n + 1` bytes of a burst do: their events, and the last of them in the OAM data latch. -/
theorem State.dmaBytes_succ_eq (s : State) (hh : Byte) {n : Nat} (hn : n < 256) :
    s.dmaBytes hh (n + 1) =
      { s with
        ports := { s.ports with oamData := s.burstByte hh n }
        videoLog := s.burstEvents hh (n + 1) ++ s.videoLog } := by
  induction n with
  | zero =>
    rw [State.dmaBytes, State.dmaByte_eq, State.burstEvents_succ, State.burstByte_eq_memRead (by omega)]
    rfl
  | succ n ih =>
    rw [State.dmaBytes, ih (by omega), State.dmaByte_eq, State.burstEvents_succ s hh (n + 1),
      ← State.memRead_in_burst s hh hn (s.burstEvents hh (n + 1) ++ s.videoLog)]
    rfl

theorem State.burstEffect_memWrite {ea : Word} (s : State) (hh : Byte) (h : ea.toNat = 0x4014) :
    burstEffect s (s.memWrite ea hh) hh := by
  have e : s.memWrite ea hh = s.dmaBytes hh (255 + 1) := if_pos ((dmaTrigger_iff ea).2 h)
  rw [e, s.dmaBytes_succ_eq hh (by omega)]
  exact ⟨rfl, rfl, rfl⟩

/-- Settles O27, by induction on the bytes copied. -/
theorem dmaBurstCopiesPage : Obligations.DmaBurstCopiesPage := fun s hh => s.burstEffect_memWrite hh rfl

/-! ### The CPU store by range -/

theorem State.wf_scratch_of_inv {s : State} {scratch : Memory} (h : s.inv = true) (hm : s.mapper = .test scratch) :
    Memory.wf scratch = true := by
  obtain ⟨_, _, hl, _⟩ := s.inv_iff.1 h
  rw [hm] at hl
  exact (Bool.and_eq_true_iff.1 hl).1

theorem State.memWrite_mapper {a : Word} (s : State) (v : Byte) (h : 0x6000 ≤ a.toNat) :
    s.memWrite a v = { s with mapper := s.mapper.prgStore a v } := by
  rw [s.memWrite_eq_busStore v (by omega), s.busStore_mapper v h]

/-- Settles O26, range by range. -/
theorem cpuStoreByRange : Obligations.CpuStoreByRange := by
  intro s ea v hinv
  refine ⟨fun h => ?_, fun h h' => ?_, s.burstEffect_memWrite v, fun h h' hne => ?_, fun h => ?_⟩
  · rw [s.memWrite_eq_busStore v (by omega), s.busStore_ram v h, ← ramIndex_eq]
    exact ⟨rfl, fun k => Memory.read_write _ k v (s.wf_ram_of_inv hinv)⟩
  · rw [s.memWrite_eq_busStore v (by omega), s.busStore_ports v h h']
    exact ⟨rfl, fun i => (VideoPorts.latch_write _ _ _ _).trans
      (if_congr (and_congr_right fun e => by rw [e]) rfl rfl)⟩
  · rw [s.memWrite_eq_busStore v hne, s.busStore_openBus v h h']
  · rw [s.memWrite_mapper v h]
    refine ⟨rfl, ?_⟩
    cases hm : s.mapper with
    | nrom => rfl
    | mmc1 m => rfl
    | test scratch =>
      refine ⟨fun hlow => ⟨_, if_pos hlow, fun k => ?_⟩, fun hhigh => if_neg hhigh.not_gt⟩
      exact Memory.read_write _ k v (State.wf_scratch_of_inv hinv hm)

end Sys2Proof.Machine
end

section
/-! PROOF. The Mapper: PRG masks and banks, the MMC1-class serial protocol, SCRATCH and the CHR port
(20_memory.md R63 to R76). -/

namespace Sys2Proof.Machine

/-! ### Address masks in numbers -/

/-- A mask of the low `n` bits is the remainder by `2 ^ n`. -/
theorem toNat_and_lowMask {w : Nat} (x mask : BitVec w) (n : Nat) (h : mask.toNat = 2 ^ n - 1) :
    (x &&& mask).toNat = x.toNat % 2 ^ n := by
  rw [BitVec.toNat_and, h, Nat.and_two_pow_sub_one_eq_mod]

theorem toNat_and_7FFF (a : Word) : (a &&& 0x7FFF#16).toNat = a.toNat % 32768 := toNat_and_lowMask a _ 15 rfl

theorem toNat_and_3FFF (a : Word) : (a &&& 0x3FFF#16).toNat = a.toNat % 16384 := toNat_and_lowMask a _ 14 rfl

/-! ### PRG loads and ignored stores -/

theorem State.memRead_mapper {s : State} {a : Word} (h : 0x6000 ≤ a.toNat) : s.memRead a = s.prgLoad a :=
  State.busLoad_mapper h

/-- A store that leaves the Mapper's state alone changes nothing. -/
theorem State.memWrite_eq_self {s : State} {a : Word} (v : Byte) (h : 0x6000 ≤ a.toNat)
    (hm : s.mapper.prgStore a v = s.mapper) : s.memWrite a v = s := by
  rw [s.memWrite_mapper v h, hm]

/-- NROM, and the test variant from 0x8000 up, load the image and take no store (R63, R64, R75). -/
theorem State.nrom_port {s : State} {a : Word} (v : Byte)
    (h : (s.mapper = .nrom ∧ 0x6000 ≤ a.toNat) ∨ ((∃ scratch, s.mapper = .test scratch) ∧ 0x8000 ≤ a.toNat)) :
    s.memRead a = s.image.prgByte (s.image.nromOffset a) a ∧ s.memWrite a v = s := by
  rcases h with ⟨hm, ha⟩ | ⟨⟨scratch, hm⟩, ha⟩
  · rw [State.memRead_mapper ha, State.prgLoad, hm]
    exact ⟨rfl, State.memWrite_eq_self v ha (by rw [hm]; rfl)⟩
  · rw [State.memRead_mapper (by omega), State.prgLoad, hm]
    exact ⟨if_neg ha.not_gt, State.memWrite_eq_self v (by omega) (by rw [hm]; exact if_neg ha.not_gt)⟩

/-- Settles O30: the masks are remainders. -/
theorem nromReadsMaskedImage : Obligations.NromReadsMaskedImage := by
  intro s a v h
  obtain ⟨hload, hstore⟩ := State.nrom_port v h
  refine ⟨fun h2 => ?_, fun h1 => ?_, hstore⟩
  · rw [hload, Image.nromOffset, if_pos h2, toNat_and_7FFF]; rfl
  · rw [hload, Image.nromOffset, if_neg (by rw [h1]; decide), if_pos h1, toNat_and_3FFF]; rfl

/-- Settles O33: SCRATCH is in canonical form, and a store reaches the load of its own address alone. -/
theorem testVariantScratchRam : Obligations.TestVariantScratchRam := by
  intro s scratch a v hinv hm ha ha'
  have hstore : s.memWrite a v = { s with mapper := .test (Memory.write scratch (scratchIndex a) v) } := by
    rw [s.memWrite_mapper v ha, hm, Mapper.prgStore, if_pos ha']
  refine ⟨_, rfl, by rw [hstore], ?_, fun b hb => State.memRead_memWrite v ?_⟩
  · rw [hstore, State.memRead_mapper ha]
    exact (if_pos ha').trans (Memory.read_write_same _ v (State.wf_scratch_of_inv hinv hm))
  · rw [State.storeReaches_test ha hm, decide_eq_false hb, Bool.and_false]

/-! ### The MMC1-class serial protocol -/

/-- `new` is the group `old` after the bit `b` has entered at bit 4 and the others have moved one place down (R68). -/
def bitEntered (old new : BitVec 5) (b : Bool) : Prop :=
  new.getLsbD 4 = b ∧ ∀ k, k < 4 → new.getLsbD k = old.getLsbD (k + 1)

theorem Mmc1.bitEntered_shifted (m : Mmc1) (v : Byte) : bitEntered m.shift (m.shifted v) (v.getLsbD 0) := by
  simp only [bitEntered, Mmc1.shifted, BitVec.getLsbD_or, BitVec.getLsbD_ushiftRight, BitVec.getLsbD_append,
    BitVec.getLsbD_setWidth]
  exact ⟨by simp, fun k hk => by simp [hk, Nat.add_comm 1 k]⟩

/-- Five bits that have entered, the first at the bottom, are the whole group. -/
theorem eq_of_bitEntered {x0 x1 x2 x3 x4 x5 w : BitVec 5} (h0 : bitEntered x0 x1 (w.getLsbD 0))
    (h1 : bitEntered x1 x2 (w.getLsbD 1)) (h2 : bitEntered x2 x3 (w.getLsbD 2))
    (h3 : bitEntered x3 x4 (w.getLsbD 3)) (h4 : bitEntered x4 x5 (w.getLsbD 4)) : x5 = w := by
  obtain ⟨e0, -⟩ := h0
  obtain ⟨e1, s1⟩ := h1
  obtain ⟨e2, s2⟩ := h2
  obtain ⟨e3, s3⟩ := h3
  obtain ⟨e4, s4⟩ := h4
  apply BitVec.eq_of_getLsbD_eq
  intro k hk
  interval_cases k
  · rw [s4 0 (by decide), s3 1 (by decide), s2 2 (by decide), s1 3 (by decide), e0]
  · rw [s4 1 (by decide), s3 2 (by decide), s2 3 (by decide), e1]
  · rw [s4 2 (by decide), s3 3 (by decide), e2]
  · rw [s4 3 (by decide), e3]
  · exact e4

theorem Mmc1.serialStore_reset (m : Mmc1) (a : Word) {v : Byte} (h : v.getLsbD 7 = true) :
    m.serialStore a v = { m with shift := 0, count := 0, control := m.control ||| 0x0C } := if_pos h

theorem Mmc1.count_succ_eq_five_iff (m : Mmc1) : m.count + 1 = 5 ↔ m.count.toNat = 4 := by
  rw [← BitVec.toNat_inj, BitVec.toNat_add]
  have := m.count.isLt
  have h1 : (1 : BitVec 3).toNat = 1 := rfl
  have h5 : (5 : BitVec 3).toNat = 5 := rfl
  omega

theorem Mmc1.serialStore_shift {m : Mmc1} (a : Word) {v : Byte} (h : v.getLsbD 7 = false) (hc : m.count.toNat < 4) :
    m.serialStore a v = { m with shift := m.shifted v, count := m.count + 1 } := by
  have hne : ¬ m.count + 1 = 5 := by rw [m.count_succ_eq_five_iff]; omega
  rw [Mmc1.serialStore, h, if_neg Bool.false_ne_true, if_neg hne]

/-- The MMC1-class registers after the five bits `w` of a group whose last store was to `a` (R68, R69). -/
def Mmc1.loaded (m : Mmc1) (a : Word) (w : BitVec 5) : Mmc1 :=
  if a.toNat < 0xA000 then { m with shift := 0, count := 0, control := w }
  else if a.toNat < 0xC000 then { m with shift := 0, count := 0, chr0 := w }
  else if a.toNat < 0xE000 then { m with shift := 0, count := 0, chr1 := w }
  else { m with shift := 0, count := 0, prgb := w }

/-- Bits 14:13 of an address, as the number of its 8 KB block modulo 4. -/
theorem selectBits_eq_iff (a : Word) (r : BitVec 2) : a.extractLsb' 13 2 = r ↔ a.toNat / 8192 % 4 = r.toNat := by
  rw [← BitVec.toNat_inj, BitVec.extractLsb'_toNat, Nat.shiftRight_eq_div_pow]

theorem Mmc1.loadRegister_eq_loaded (m : Mmc1) {a : Word} (ha : 0x8000 ≤ a.toNat) (w : BitVec 5) :
    { m.loadRegister (a.extractLsb' 13 2) w with shift := 0, count := 0 } = m.loaded a w := by
  have h0 : a.extractLsb' 13 2 = 0 ↔ a.toNat < 0xA000 :=
    (selectBits_eq_iff a 0).trans (by rw [show (0 : BitVec 2).toNat = 0 from rfl]; omega)
  have h1 : a.extractLsb' 13 2 = 1 ↔ 0xA000 ≤ a.toNat ∧ a.toNat < 0xC000 :=
    (selectBits_eq_iff a 1).trans (by rw [show (1 : BitVec 2).toNat = 1 from rfl]; omega)
  have h2 : a.extractLsb' 13 2 = 2 ↔ 0xC000 ≤ a.toNat ∧ a.toNat < 0xE000 :=
    (selectBits_eq_iff a 2).trans (by rw [show (2 : BitVec 2).toNat = 2 from rfl]; omega)
  unfold Mmc1.loadRegister Mmc1.loaded
  by_cases hA : a.toNat < 0xA000
  · rw [if_pos (h0.2 hA), if_pos hA]
  rw [if_neg (mt h0.1 hA), if_neg hA]
  by_cases hC : a.toNat < 0xC000
  · rw [if_pos (h1.2 (by omega)), if_pos hC]
  rw [if_neg (fun e => hC (h1.1 e).2), if_neg hC]
  by_cases hE : a.toNat < 0xE000
  · rw [if_pos (h2.2 (by omega)), if_pos hE]
  · rw [if_neg (fun e => hE (h2.1 e).2), if_neg hE]

theorem Mmc1.serialStore_load {m : Mmc1} {a : Word} {v : Byte} (ha : 0x8000 ≤ a.toNat) (h : v.getLsbD 7 = false)
    (hc : m.count.toNat = 4) : m.serialStore a v = m.loaded a (m.shifted v) := by
  rw [Mmc1.serialStore, h, if_neg Bool.false_ne_true, if_pos (m.count_succ_eq_five_iff.2 hc),
    m.loadRegister_eq_loaded ha]

theorem Mapper.prgStore_mmc1 (m : Mmc1) {a : Word} (v : Byte) (ha : 0x8000 ≤ a.toNat) :
    (Mapper.mmc1 m).prgStore a v = .mmc1 (m.serialStore a v) := if_neg ha.not_gt

/-- The registers with `n` bits of a group in `shift`. -/
def Mmc1.withGroup (m : Mmc1) (shift : BitVec 5) (n : BitVec 3) : Mmc1 := { m with shift := shift, count := n }

/-- One bit store into a group of fewer than four bits. -/
theorem Mapper.prgStore_withGroup (m : Mmc1) (shift : BitVec 5) {n : BitVec 3} {a : Word} {v : Byte} {b : Bool}
    (hn : n.toNat < 4) (ha : 0x8000 ≤ a.toNat) (hv : v.getLsbD 7 = false) (hb : v.getLsbD 0 = b) :
    ∃ new, bitEntered shift new b ∧
      (Mapper.mmc1 (m.withGroup shift n)).prgStore a v = .mmc1 (m.withGroup new (n + 1)) :=
  ⟨_, hb ▸ (m.withGroup shift n).bitEntered_shifted v,
    (Mapper.prgStore_mmc1 _ v ha).trans (congrArg _ (Mmc1.serialStore_shift a hv hn))⟩

/-- Settles O31: four stores shift, the fifth loads the bits the five have brought in. -/
theorem mmc1SerialLoad : Obligations.Mmc1SerialLoad := by
  refine ⟨fun m a v ha h => ?_, fun m a v ha h _ => ?_, ?_⟩
  · rw [Mapper.prgStore_mmc1 m v ha, m.serialStore_reset a h]
  · obtain ⟨htop, hdown⟩ := m.bitEntered_shifted v
    refine ⟨m.shifted v, htop, hdown, fun hc => ?_, fun hc => ?_⟩
    · rw [Mapper.prgStore_mmc1 m v ha, Mmc1.serialStore_shift a h hc]
    · rw [Mapper.prgStore_mmc1 m v ha, Mmc1.serialStore_load ha h hc]
      rfl
  · intro m a0 a1 a2 a3 a4 v0 v1 v2 v3 v4 w hc ha hv h0 h1 h2 h3 h4
    simp only [List.forall_mem_cons] at ha hv
    obtain ⟨ha0, ha1, ha2, ha3, ha4, -⟩ := ha
    obtain ⟨hv0, hv1, hv2, hv3, hv4, -⟩ := hv
    have hm : m = m.withGroup m.shift 0 := by rw [← hc]; rfl
    obtain ⟨x1, e1, s1⟩ := Mapper.prgStore_withGroup m m.shift (n := 0) (by decide) ha0 hv0 h0
    obtain ⟨x2, e2, s2⟩ := Mapper.prgStore_withGroup m x1 (n := 0 + 1) (by decide) ha1 hv1 h1
    obtain ⟨x3, e3, s3⟩ := Mapper.prgStore_withGroup m x2 (n := 0 + 1 + 1) (by decide) ha2 hv2 h2
    obtain ⟨x4, e4, s4⟩ := Mapper.prgStore_withGroup m x3 (n := 0 + 1 + 1 + 1) (by decide) ha3 hv3 h3
    have e5 := (m.withGroup x4 (0 + 1 + 1 + 1 + 1)).bitEntered_shifted v4
    rw [h4] at e5
    rw [congrArg Mapper.mmc1 hm, s1, s2, s3, s4, Mapper.prgStore_mmc1 _ v4 ha4,
      Mmc1.serialStore_load ha4 hv4 rfl, eq_of_bitEntered e1 e2 e3 e4 e5]
    rfl

/-! ### The MMC1-class PRG banks -/

theorem Mmc1.toNat_prgMode (m : Mmc1) : m.prgMode.toNat = m.control.toNat / 4 % 4 := by
  rw [Mmc1.prgMode, BitVec.extractLsb'_toNat, Nat.shiftRight_eq_div_pow]

theorem Mmc1.toNat_prgBank (m : Mmc1) : m.prgBank.toNat = m.prgb.toNat % 16 := BitVec.toNat_setWidth 4 m.prgb

theorem toNat_and_E : ∀ b : BitVec 4, (b &&& 0xE#4).toNat = b.toNat / 2 * 2 := by decide

theorem toNat_and_1E : ∀ b : BitVec 5, (b &&& 0x1E#5).toNat = b.toNat / 2 * 2 := by decide

/-- The PRG offset of R70 in numbers, before the wrap at the length of the image's `n` banks. -/
def Mmc1.prgOffset (m : Mmc1) (n : Nat) (a : Word) : Nat :=
  if m.control.toNat / 4 % 4 ≤ 1 then m.prgb.toNat % 16 / 2 * 32768 + a.toNat % 32768
  else if m.control.toNat / 4 % 4 = 2 then
    (if a.toNat < 0xC000 then 0 else m.prgb.toNat % 16 * 16384) + a.toNat % 16384
  else (if a.toNat < 0xC000 then m.prgb.toNat % 16 * 16384 else (n - 1) * 16384) + a.toNat % 16384

theorem Image.mmc1Offset_eq {img : Image} (m : Mmc1) (a : Word) (hn : 1 ≤ img.prgUnits.toNat) :
    img.mmc1Offset m a = some (m.prgOffset img.prgUnits.toNat a % (img.prgUnits.toNat * 16384)) := by
  have h0 : img.prgUnits ≠ 0 := fun e => by rw [e] at hn; exact absurd hn (by decide)
  have hlow : (m.prgMode = 0 ∨ m.prgMode = 1) ↔ m.control.toNat / 4 % 4 ≤ 1 := by
    rw [← m.toNat_prgMode]; generalize m.prgMode = r; revert r; decide
  have hmid : m.prgMode = 2 ↔ m.control.toNat / 4 % 4 = 2 := by
    rw [← m.toNat_prgMode]; exact BitVec.toNat_inj.symm
  simp only [Image.mmc1Offset, h0, if_false, Image.prgLength, Mmc1.prgOffset, hlow, hmid, toNat_and_E,
    toNat_and_7FFF, toNat_and_3FFF, m.toNat_prgBank]
  refine congrArg (fun off => some (off % _)) ?_
  split_ifs <;> omega

/-- Settles O32: the offset in numbers, and the range below 0x8000 that answers 0x00 and takes no store. -/
theorem mmc1BankTranslation : Obligations.Mmc1BankTranslation := by
  intro s m a v hm
  refine ⟨fun ha hn => ?_, fun ha ha' => ⟨?_, State.memWrite_eq_self v ha (by rw [hm]; exact if_pos ha')⟩⟩
  · rw [State.memRead_mapper (by omega), State.prgLoad, hm]
    refine (if_neg ha.not_gt).trans ?_
    rw [Image.mmc1Offset_eq m a hn]
    rfl
  · rw [State.memRead_mapper ha, State.prgLoad, hm]
    exact if_pos ha'

/-! ### The CHR port -/

theorem Mmc1.chrMode_eq_false_iff (m : Mmc1) : m.chrMode = false ↔ m.control.toNat / 16 = 0 := by
  rw [Mmc1.chrMode]; generalize m.control = r; revert r; decide

theorem Mmc1.chrOffset_eq (m : Mmc1) (c : BitVec 13) :
    m.chrOffset c =
      if m.control.toNat / 16 = 0 then m.chr0.toNat / 2 * 8192 + c.toNat
      else if c.toNat < 0x1000 then m.chr0.toNat * 4096 + c.toNat
      else m.chr1.toNat * 4096 + c.toNat % 4096 := by
  have hc : (c &&& 0x0FFF#13).toNat = c.toNat % 4096 := toNat_and_lowMask c _ 12 rfl
  simp only [Mmc1.chrOffset, m.chrMode_eq_false_iff, toNat_and_1E, hc]
  split_ifs <;> omega

/-- An MMC1-class image without CHR reads its CHR-RAM (R72). -/
theorem State.chrLoad_chrRam {s : State} {m : Mmc1} (c : BitVec 13) (hm : s.mapper = .mmc1 m)
    (h0 : s.image.chrUnits = 0) : s.chrLoad c = some (Memory.read m.chrRam c.toNat) := by
  rw [State.chrLoad, hm]
  exact if_pos h0

/-- A running machine whose MMC1-class image has no CHR takes a CHR store into its CHR-RAM (R72). -/
theorem State.chrStore_chrRam {s : State} {m : Mmc1} (c : BitVec 13) (v : Byte) (hrun : s.status = .running)
    (hm : s.mapper = .mmc1 m) (h0 : s.image.chrUnits = 0) :
    s.chrStore c v = { s with mapper := .mmc1 { m with chrRam := Memory.write m.chrRam c.toNat v } } := by
  rw [State.chrStore, hrun, hm]
  exact if_pos h0

/-- A CHR store that is not into the CHR-RAM of an MMC1-class image without CHR changes nothing. -/
theorem State.chrStore_eq_self {s : State} (c : BitVec 13) (v : Byte)
    (h : ∀ m, s.mapper = .mmc1 m → s.image.chrUnits ≠ 0) : s.chrStore c v = s := by
  rcases s.chrStore_cases c v with e | ⟨m, _, hm, h0, _⟩
  · exact e
  · exact absurd h0 (h m hm)

theorem State.wf_chrRam_of_inv {s : State} {m : Mmc1} (h : s.inv = true) (hm : s.mapper = .mmc1 m) :
    Memory.wf m.chrRam = true := by
  obtain ⟨_, _, hl, _⟩ := s.inv_iff.1 h
  simp only [hm, Mapper.legal, Bool.and_eq_true] at hl
  exact hl.1.2

/-- Settles O34, variant by variant. -/
theorem chrPorts : Obligations.ChrPorts := by
  intro s c c' v
  refine ⟨fun hm => ⟨?_, ?_⟩, fun scratch hm => ⟨?_, ?_⟩, fun m hm hcn => ⟨?_, ?_⟩, fun m hm hcn hrun hinv => ?_⟩
  · rw [State.chrLoad, hm]; rfl
  · exact State.chrStore_eq_self c v fun m e => by rw [hm] at e; cases e
  · rw [State.chrLoad, hm]
  · exact State.chrStore_eq_self c v fun m e => by rw [hm] at e; cases e
  · exact State.chrStore_eq_self c v fun _ _ e => by rw [e] at hcn; exact absurd hcn (by decide)
  · have h0 : s.image.chrUnits ≠ 0 := fun e => by rw [e] at hcn; exact absurd hcn (by decide)
    rw [State.chrLoad, hm, ← m.chrOffset_eq c]
    exact if_neg h0
  · have h0 : s.image.chrUnits = 0 := BitVec.eq_of_toNat_eq hcn
    have hwf := State.wf_chrRam_of_inv hinv hm
    rw [State.chrStore_chrRam c v hrun hm h0, State.chrLoad_chrRam c' hm h0]
    refine (if_pos h0).trans ?_
    simp only [Memory.read_write _ _ v hwf, BitVec.toNat_inj, apply_ite some]

end Sys2Proof.Machine
end

section
/-! PROOF. What the outside world does, and when (20_memory.md R48, R80, 60_exceptions.md R237). -/

namespace Sys2Proof.Machine

/-! ### The boundary -/

theorem State.boundary_cons {s : State} {b : Boundary} {rest : List Boundary} (h : s.outside = b :: rest) :
    s.boundary = { s.outsideMove b with outside := rest } := by
  rw [State.boundary, h]

theorem State.outsideMove_ports_of_move {s : State} {b : Boundary} {move : AgentMove}
    (h : s.params.videoAgent = .opened) (hb : b.agent = some move) :
    (s.outsideMove b).ports = s.ports.agentMove move := by
  simp only [State.outsideMove, h, hb]

theorem State.outsideMove_ports_of_still {s : State} {b : Boundary}
    (h : s.params.videoAgent = .closed ∨ b.agent = none) : (s.outsideMove b).ports = s.ports := by
  unfold State.outsideMove
  rcases h with h | h
  · simp only [h]
  · cases hv : s.params.videoAgent <;> simp only [h]

/-- The agent's move or nothing: which of the two, the parameter and the entry decide. -/
theorem State.outsideMove_ports_cases (s : State) (b : Boundary) :
    (∃ move, (s.outsideMove b).ports = s.ports.agentMove move) ∨ (s.outsideMove b).ports = s.ports := by
  cases hv : s.params.videoAgent with
  | closed => exact .inr (State.outsideMove_ports_of_still (.inl hv))
  | opened =>
    cases hb : b.agent with
    | none => exact .inr (State.outsideMove_ports_of_still (.inr hb))
    | some move => exact .inl ⟨move, State.outsideMove_ports_of_move hv hb⟩

/-- The agent writes readable ports alone (R80). -/
theorem VideoPorts.latch_agentMove (r : VideoPorts) (move : AgentMove) {i : Port} (h : i.readable = false) :
    (r.agentMove move).latch i = r.latch i := by
  cases i with
  | status | oamData | data => cases h
  | control | mask | oamAddress | scroll | address => rfl

/-! ### During a step -/

/-- No store changes the status latch. -/
theorem Stores.statusLatch {s t : State} {l : List Word} (h : Stores s l t) :
    t.ports.latch .status = s.ports.latch .status := by
  induction h with
  | done hs => rw [hs.ports]
  | @store _ u _ a _ hs v _ ih => rw [ih, u.memWrite_statusLatch a v, hs.ports]

/-- No instruction does what only the outside may do. -/
theorem State.after_outside (s : State) (i : Instr) :
    (s.after i).outside = s.outside ∧ (s.after i).nmiPending = s.nmiPending ∧
      (s.after i).ports.latch .status = s.ports.latch .status := by
  have hst := stores_after s i
  obtain ⟨_, _, hnmi, houtside, _⟩ := hst.configuration
  exact ⟨houtside, hnmi, hst.statusLatch⟩

@[simp] theorem State.takeTrap_outside (s : State) (ret : Word) (status : Byte) (vector : Word) :
    (s.takeTrap ret status vector).outside = s.outside := by
  obtain ⟨_, e⟩ := s.takeTrap_eq ret status vector
  rw [e]

theorem State.takeNmi_outside (s : State) : s.takeNmi.outside = s.outside :=
  State.takeTrap_outside { s with nmiPending := false } _ _ _

theorem State.takeNmi_statusLatch (s : State) : s.takeNmi.ports.latch .status = s.ports.latch .status :=
  State.takeTrap_statusLatch { s with nmiPending := false } _ _ _

theorem State.boundary_outside (s : State) : s.boundary.outside = s.outside.tail := by
  rw [State.boundary_eq]

/-- Settles O59: a boundary is one entry's move, a step is what follows it, and no store reaches what the outside
writes. -/
theorem outsideActsAtBoundariesOnly : Obligations.OutsideActsAtBoundariesOnly := by
  refine ⟨fun s b rest h => ?_, fun s => State.boundary_nil, fun s t h => ?_, fun i s t h => ?_⟩
  · rw [State.boundary_cons h]
    refine ⟨rfl, rfl, fun i hi => ?_, State.outsideMove_ports_of_still, fun move hv hb => ?_⟩
    · rcases s.outsideMove_ports_cases b with ⟨move, e⟩ | e
      · exact (congrArg (VideoPorts.latch · i) e).trans (s.ports.latch_agentMove move hi)
      · exact congrArg (VideoPorts.latch · i) e
    · rw [State.outsideMove_ports_of_move hv hb]
      exact ⟨rfl, rfl, rfl⟩
  · rcases step_cases s with ⟨_, _, e⟩ | ⟨_, hdue, e⟩ | ⟨_, hdue, e⟩ <;> rw [e] at h
    · cases h
    · cases h
      exact ⟨(if_pos hdue).mpr rfl, (State.takeNmi_outside _).trans s.boundary_outside, State.takeNmi_statusLatch _⟩
    · obtain ⟨houtside, _, hlatch⟩ := s.boundary.after_outside s.boundary.fetchInstr
      rw [exec_eq_next_iff.1 h] at houtside hlatch
      exact ⟨by rw [hdue]; exact h, houtside.trans s.boundary_outside, hlatch⟩
  · rw [← exec_eq_next_iff.1 h]
    exact s.after_outside i

end Sys2Proof.Machine
end

section
/-! PROOF. Decoding and encoding invert each other, an opcode byte fixes its instruction's length, and a step runs the
instruction at PC (30_encoding.md R90, R91, R107 to R113). -/

namespace Sys2Proof

/-! ### The opcode map -/

/-- All a row of the opcode map says: its instruction is well-formed and encoded by the row's own bytes, and the operand
bytes decide neither whether there is a row nor how long its instruction is. -/
theorem decodeOfficial_eq_some {op lo hi : Byte} {i : Instr} (nops : NopSet) (h : decodeOfficial op lo hi = some i) :
    i.wf nops = true ∧ encode i = [op, lo, hi].take i.length ∧
      ∀ lo' hi', ∃ j, decodeOfficial op lo' hi' = some j ∧ j.length = i.length := by
  unfold decodeOfficial at h
  split at h
  all_goals cases h
  all_goals exact ⟨rfl, by simp [encode, Instr.length, Operand.operandBytes], fun _ _ => ⟨_, rfl, rfl⟩⟩

/-- Every official opcode byte has a row. -/
theorem isSome_decodeOfficial : ∀ op ∈ officialOpcodes, (decodeOfficial op 0 0).isSome = true :=
  List.all_eq_true.1 (by decide)

theorem not_official_of_decodeOfficial_eq_none {op lo hi : Byte} (h : decodeOfficial op lo hi = none) :
    officialOpcodes.contains op = false := by
  refine eq_false_of_ne_true fun hop => ?_
  obtain ⟨i, hi⟩ := Option.isSome_iff_exists.1 (isSome_decodeOfficial op (List.contains_iff_mem.1 hop))
  obtain ⟨_, _, hrow⟩ := decodeOfficial_eq_some [] hi
  obtain ⟨j, hj, _⟩ := hrow lo _
  cases h.symm.trans hj

/-! ### All 256 opcode bytes -/

/-- All decoding gives: a well-formed instruction, encoded by the bytes it was decoded from, of a length the operand
bytes do not decide. -/
theorem decodeBytes_spec (nops : NopSet) (op lo hi : Byte) :
    (decodeBytes nops op lo hi).wf nops = true ∧
      encode (decodeBytes nops op lo hi) = [op, lo, hi].take (decodeBytes nops op lo hi).length ∧
      ∀ lo' hi', (decodeBytes nops op lo' hi').length = (decodeBytes nops op lo hi).length := by
  cases h : decodeOfficial op lo hi with
  | some i =>
    obtain ⟨hwf, henc, hrow⟩ := decodeOfficial_eq_some nops h
    have hi : decodeBytes nops op lo hi = i := by rw [decodeBytes, h]
    rw [hi]
    refine ⟨hwf, henc, fun lo' hi' => ?_⟩
    obtain ⟨j, hj, hlen⟩ := hrow lo' hi'
    rw [decodeBytes, hj, hlen]
  | none =>
    have hoff := not_official_of_decodeOfficial_eq_none h
    have hnone := decodeOfficial_eq_none hoff
    rcases hl : nops.lengthOf op with _ | _ | _ | _ <;>
      simp only [decodeBytes, hnone, hl, Instr.wf, hoff] <;> simp [encode, Instr.length, NopOperand.length]

section
variable (nops : NopSet) (op lo hi : Byte)

theorem wf_decodeBytes : (decodeBytes nops op lo hi).wf nops = true := (decodeBytes_spec nops op lo hi).1

theorem encode_decodeBytes :
    encode (decodeBytes nops op lo hi) = [op, lo, hi].take (decodeBytes nops op lo hi).length := by
  obtain ⟨_, henc, _⟩ := decodeBytes_spec nops op lo hi
  exact henc

theorem length_decodeBytes (lo' hi' : Byte) :
    (decodeBytes nops op lo' hi').length = (decodeBytes nops op lo hi).length := by
  obtain ⟨_, _, hlen⟩ := decodeBytes_spec nops op lo hi
  exact hlen lo' hi'

end

/-- A well-formed instruction is what its own bytes decode to, filled up to three with 0. A form its mnemonic lacks is
not well-formed; each other form is a row of the map. -/
theorem decodeBytes_encode {nops : NopSet} {i : Instr} (hwf : i.wf nops = true) :
    decodeBytes nops ((encode i).getD 0 0) ((encode i).getD 1 0) ((encode i).getD 2 0) = i := by
  cases i with
  | lda m | ldx m | ldy m | sta m | stx m | sty m | adc m | sbc m | and m | ora m | eor m | cmp m | cpx m | cpy m
  | bit m | inc m | dec m | asl m | lsr m | rol m | ror m =>
    cases m with
    | acc | imm | zp | zpx | zpy | izx | izy => first | exact absurd hwf Bool.false_ne_true | rfl
    | abs w | abx w | aby w =>
      obtain ⟨hi, lo, rfl⟩ := exists_wordOf w
      first
        | exact absurd hwf Bool.false_ne_true
        | show decodeBytes nops _ (loByte (wordOf hi lo)) (hiByte (wordOf hi lo)) = _
          rw [loByte_wordOf, hiByte_wordOf]; rfl
  | jmpAbs w | jmpInd w | jsr w =>
    obtain ⟨hi, lo, rfl⟩ := exists_wordOf w
    show decodeBytes nops _ (loByte (wordOf hi lo)) (hiByte (wordOf hi lo)) = _
    rw [loByte_wordOf, hiByte_wordOf]; rfl
  | unofficialNop op operand =>
    simp only [Instr.wf, Bool.and_eq_true, Bool.not_eq_true', beq_iff_eq] at hwf
    obtain ⟨hoff, hlen⟩ := hwf
    cases operand <;> simp [encode, decodeBytes, decodeOfficial_eq_none hoff, hlen, NopOperand.length]
  | illegal op =>
    simp only [Instr.wf, Bool.and_eq_true, Bool.not_eq_true', beq_iff_eq] at hwf
    obtain ⟨hoff, hlen⟩ := hwf
    simp [encode, decodeBytes, decodeOfficial_eq_none hoff, hlen]
  | _ => rfl

theorem exists_decodeBytes_eq {nops : NopSet} {i : Instr} (hwf : i.wf nops = true) :
    ∃ op lo hi, decodeBytes nops op lo hi = i := ⟨_, _, _, decodeBytes_encode hwf⟩

/-- No two well-formed instructions have one encoding. -/
theorem encode_injective {nops : NopSet} {i j : Instr} (hi : i.wf nops = true) (hj : j.wf nops = true)
    (h : encode i = encode j) : i = j := by
  rw [← decodeBytes_encode hi, h, decodeBytes_encode hj]

/-- Bytes past an instruction's length do not count in decoding it. -/
theorem decodeBytes_eq_of_take_eq {nops : NopSet} {op lo hi lo' hi' : Byte}
    (h : [op, lo', hi'].take (decodeBytes nops op lo hi).length =
      [op, lo, hi].take (decodeBytes nops op lo hi).length) :
    decodeBytes nops op lo' hi' = decodeBytes nops op lo hi := by
  refine encode_injective (wf_decodeBytes nops op lo' hi') (wf_decodeBytes nops op lo hi) ?_
  rw [encode_decodeBytes, encode_decodeBytes, length_decodeBytes nops op lo hi, h]

/-! ### Lengths -/

theorem Operand.operandBytes_le (m : Operand) : m.operandBytes ≤ 2 := by
  cases m <;> simp [Operand.operandBytes]

theorem Instr.length_cases (i : Instr) : i.length = 1 ∨ i.length = 2 ∨ i.length = 3 := by
  cases i with
  | lda m | ldx m | ldy m | sta m | stx m | sty m | adc m | sbc m | and m | ora m | eor m | cmp m | cpx m | cpy m
  | bit m | inc m | dec m | asl m | lsr m | rol m | ror m =>
    have := m.operandBytes_le
    simp only [Instr.length]
    omega
  | unofficialNop _ operand => cases operand <;> simp [Instr.length]
  | _ => simp [Instr.length]

/-! ### Lists of bytes -/

/-- Decoding a list is decoding the bytes at its head, as many as the instruction is long. -/
theorem decode_take_append (nops : NopSet) (op lo hi : Byte) (rest : List Byte) :
    decode nops ([op, lo, hi].take (decodeBytes nops op lo hi).length ++ rest) =
      .ok (decodeBytes nops op lo hi, rest) := by
  have hlen := length_decodeBytes nops op lo hi 0 0
  rcases (decodeBytes nops op lo hi).length_cases with h | h | h <;> rw [h] at hlen ⊢
  · have hpad : decodeBytes nops op 0 0 = decodeBytes nops op lo hi := decodeBytes_eq_of_take_eq (by rw [h]; rfl)
    rw [← hpad]
    show decode nops (op :: rest) = _
    simp only [decode, hlen]
  · have hpad : decodeBytes nops op lo 0 = decodeBytes nops op lo hi := decodeBytes_eq_of_take_eq (by rw [h]; rfl)
    rw [← hpad]
    show decode nops (op :: lo :: rest) = _
    simp only [decode, hlen]
  · show decode nops (op :: lo :: hi :: rest) = _
    simp only [decode, hlen]

/-- A list that decodes begins with the bytes of the instruction. -/
theorem decode_eq_ok {nops : NopSet} {bytes rest : List Byte} {i : Instr} (h : decode nops bytes = .ok (i, rest)) :
    ∃ op lo hi, i = decodeBytes nops op lo hi ∧ bytes = [op, lo, hi].take i.length ++ rest := by
  unfold decode at h
  split at h
  · cases h
  next op tail =>
    split at h <;> cases h
    next hlen => exact ⟨op, 0, 0, rfl, by rw [hlen]; rfl⟩
    next lo hlen => exact ⟨op, lo, 0, rfl, by rw [length_decodeBytes nops op 0 0, hlen]; rfl⟩
    next lo hi hlen => exact ⟨op, lo, hi, rfl, by rw [length_decodeBytes nops op 0 0, hlen]; rfl⟩

/-- Three bytes always hold an instruction. -/
theorem decode_three (nops : NopSet) (op lo hi : Byte) :
    decode nops [op, lo, hi] =
      .ok (decodeBytes nops op lo hi, [op, lo, hi].drop (decodeBytes nops op lo hi).length) := by
  have h := decode_take_append nops op lo hi ([op, lo, hi].drop (decodeBytes nops op lo hi).length)
  rwa [List.take_append_drop] at h

/-- Settles O1: a well-formed instruction is decoded from some bytes, and those at its length are its encoding. -/
theorem decodeInvertsEncode : Obligations.DecodeInvertsEncode := by
  intro nops i rest hwf
  obtain ⟨op, lo, hi, rfl⟩ := exists_decodeBytes_eq hwf
  rw [encode_decodeBytes, decode_take_append]

/-- Settles O2: what decodes is decoded from the bytes at the head of the list. -/
theorem encodeInvertsDecode : Obligations.EncodeInvertsDecode := by
  intro nops bytes rest i h
  obtain ⟨op, lo, hi, rfl, hbytes⟩ := decode_eq_ok h
  exact ⟨wf_decodeBytes nops op lo hi, by rw [encode_decodeBytes, hbytes]⟩

/-- Settles O3: row by row for the length; the fetch reads PC and memory alone. -/
theorem lengthDependsOnOpcodeAlone : Obligations.LengthDependsOnOpcodeAlone := by
  refine ⟨fun nops op lo hi lo' hi' => ⟨length_decodeBytes nops op lo' hi' lo hi, ?_⟩, fun s a x y sp p => rfl⟩
  have := (decodeBytes nops op lo hi).length_cases
  omega

/-- Settles O4 by running the decoder on the sixteen words. -/
theorem specWordsDecode : Obligations.SpecWordsDecode := by
  unfold Obligations.SpecWordsDecode
  decide

end Sys2Proof

namespace Sys2Proof.Machine

/-- Settles O5: the fetch decodes the three bytes at PC, and so does decoding their list. -/
theorem stepRunsDecodedInstruction : Obligations.StepRunsDecodedInstruction := by
  intro s i rest hrun hnmi _ hdec
  refine ⟨?_, State.boundary_nil⟩
  have hparams : s.boundary.params = s.params := by rw [State.boundary_eq]
  have hpc : s.boundary.pc = s.pc := by rw [State.boundary_eq]
  have hfetch : s.boundary.fetchInstr = i := by
    rw [decode_three] at hdec
    cases hdec
    rw [State.fetchInstr_eq, hparams, hpc, BitVec.add_assoc]
    rfl
  rcases step_cases s with ⟨_, hhalted, _⟩ | ⟨_, hdue, _⟩ | ⟨_, _, e⟩
  · cases hrun.symm.trans hhalted
  · cases hnmi.symm.trans hdue
  · rw [e, hfetch]

/-- Settles O11: what decodes is well-formed, and a store through Immediate is not. -/
theorem storeThroughImmediateIsFatalAndUnreachable : Obligations.StoreThroughImmediateIsFatalAndUnreachable := by
  refine ⟨fun s b => ⟨rfl, rfl, rfl⟩, fun nops op lo hi b i hmem h => ?_⟩
  have hwf := wf_decodeBytes nops op lo hi
  have hill : i.wf nops = false := by fin_cases hmem <;> rfl
  rw [h, hill] at hwf
  cases hwf

end Sys2Proof.Machine
end

section
/-! PROOF. The addressing modes in numbers (30_encoding.md R94 to R106). -/

namespace Sys2Proof.Machine

theorem zext16_add (b x : Byte) : zext16 (b + x) = BitVec.ofNat 16 ((b.toNat + x.toNat) % 0x100) :=
  (zext16_eq_ofNat _).trans (congrArg _ (BitVec.toNat_add b x))

theorem add_zext16 (w : Word) (x : Byte) : w + zext16 x = BitVec.ofNat 16 ((w.toNat + x.toNat) % 0x10000) :=
  BitVec.eq_of_toNat_eq (by simp [BitVec.toNat_add])

/-- The byte of page 0 at `n` modulo 0x100, as a number: the `zp` of `Obligations.EffectiveAddresses`. -/
def State.zpByte (s : State) (n : Nat) : Nat := (s.memRead (BitVec.ofNat 16 (n % 0x100))).toNat

/-- A pointer of page 0 in numbers, its address given before the wrap. -/
theorem State.toNat_zpWord_of_mod (s : State) {b : Byte} {n : Nat} (h : b.toNat = n % 0x100) :
    (s.zpWord b).toNat = s.zpByte n + 256 * s.zpByte (n + 1) := by
  rw [wordLoadsWrap.1 s b, h, Nat.mod_add_mod]
  rfl

theorem State.zpWord_of_mod (s : State) {b : Byte} {n : Nat} (h : b.toNat = n % 0x100) :
    s.zpWord b = BitVec.ofNat 16 (s.zpByte n + 256 * s.zpByte (n + 1)) := by
  rw [← s.toNat_zpWord_of_mod h, BitVec.ofNat_toNat, BitVec.setWidth_eq]

/-- Settles O29, mode by mode: each sum wraps at the width of its address. -/
theorem effectiveAddresses : Obligations.EffectiveAddresses := by
  intro s b w
  have hb : b.toNat = b.toNat % 0x100 := (Nat.mod_eq_of_lt b.isLt).symm
  refine ⟨rfl, rfl, rfl, rfl, congrArg _ (zext16_eq_ofNat b), congrArg _ (zext16_add b s.x),
    congrArg _ (zext16_add b s.y), rfl, congrArg _ (add_zext16 w s.x), congrArg _ (add_zext16 w s.y),
    congrArg _ (s.zpWord_of_mod (BitVec.toNat_add b s.x)), congrArg Target.mem ?_, fun m ea h => ?_⟩
  · rw [add_zext16, s.toNat_zpWord_of_mod hb]
    rfl
  · rw [State.operand, h, State.load]

end Sys2Proof.Machine
end

section
/-! PROOF. Loads, stores and register transfers (40_load_store_transfer.md R121 to R132). -/

namespace Sys2Proof.Machine

/-! ### SetZN -/

/-- SetZN leaves Z and N as those of its byte (10_state.md R23). -/
theorem znOf_znFlags (p v : Byte) : znOf (znFlags p v) v := by
  refine ⟨?_, (flagN_znFlags p v).trans (getLsbD_seven v)⟩
  rw [flagZ_znFlags, Bool.eq_iff_iff, beq_iff_eq, decide_eq_true_iff]
  exact BitVec.toNat_inj.symm

/-- SetZN, the last thing each load and each transfer but TXS does, changes P alone, and of P only Z and N. -/
theorem State.setZN_effect (u : State) (v : Byte) :
    u.setZN v = { u with p := (u.setZN v).p } ∧ znOf (u.setZN v).p v ∧ bitsKept [1, 7] u.p (u.setZN v).p :=
  ⟨rfl, znOf_znFlags u.p v, bitsKept_znFlags u.p v⟩

/-! ### Loads: the operand does not depend on PC -/

section
variable (s : State) (m : Operand)

theorem exec_lda : exec (.lda m) s = .next (((s.advancePast m).setA (s.operand m)).setZN (s.operand m)) := by
  rw [exec, execLda, State.operand_advancePast]

theorem exec_ldx : exec (.ldx m) s = .next (((s.advancePast m).setX (s.operand m)).setZN (s.operand m)) := by
  rw [exec, execLdx, State.operand_advancePast]

theorem exec_ldy : exec (.ldy m) s = .next (((s.advancePast m).setY (s.operand m)).setZN (s.operand m)) := by
  rw [exec, execLdy, State.operand_advancePast]

end

/-- Settles O37: SetZN of the operand's byte, after the register took it. -/
theorem loadInstructions : Obligations.LoadInstructions := by
  intro s m
  exact ⟨⟨_, exec_lda s m, State.setZN_effect _ _⟩, ⟨_, exec_ldx s m, State.setZN_effect _ _⟩,
    ⟨_, exec_ldy s m, State.setZN_effect _ _⟩⟩

/-- Settles O39: SetZN of the byte moved, but for TXS. -/
theorem transferInstructions : Obligations.TransferInstructions := by
  intro s
  exact ⟨⟨_, rfl, State.setZN_effect _ _⟩, ⟨_, rfl, State.setZN_effect _ _⟩, ⟨_, rfl, State.setZN_effect _ _⟩,
    ⟨_, rfl, State.setZN_effect _ _⟩, ⟨_, rfl, State.setZN_effect _ _⟩, rfl⟩

/-! ### Stores through an operand -/

/-- A change of registers and status that keeps bit 5 of P at 1 keeps the invariant. -/
theorem State.SameDevices.inv {s t : State} (h : s.SameDevices t) (hs : s.inv = true) (hp : flagU t.p = true) :
    t.inv = true := (Stores.done h).inv hs hp

/-- Storing through a resolved mode at the end of an instruction, its flags already written, target by target
(30_encoding.md R106). -/
theorem writeEffect_store {s : State} (m : Operand) {p : Byte} (v : Byte) (hs : s.inv = true) (hp : flagU p = true) :
    writeEffect s (((s.advancePast m).setP p).store (s.resolve m) v) m p v := by
  unfold writeEffect
  cases s.resolve m with
  | acc => rfl
  | imm b => rfl
  | mem ea =>
    have hdev : s.SameDevices ((s.advancePast m).setP p) := by constructor <;> rfl
    exact cpuStoreByRange _ ea v (hdev.inv hs hp)

/-- The same where the instruction writes no flag: the store of STA, STX and STY (R124 to R126). -/
theorem writeEffect_store_keeping_p {s : State} (m : Operand) (v : Byte) (hs : s.inv = true) :
    writeEffect s ((s.advancePast m).store ((s.advancePast m).resolve m) v) m s.p v := by
  obtain ⟨hp, _⟩ := s.inv_iff.1 hs
  rw [State.resolve_advancePast]
  exact writeEffect_store m v hs hp

/-- Settles O38: the address is resolved in the state past the instruction, where it is the same. -/
theorem storeInstructions : Obligations.StoreInstructions := by
  intro s m hs
  exact ⟨⟨_, rfl, writeEffect_store_keeping_p m s.a hs⟩, ⟨_, rfl, writeEffect_store_keeping_p m s.x hs⟩,
    ⟨_, rfl, writeEffect_store_keeping_p m s.y hs⟩⟩

end Sys2Proof.Machine
end

section
/-! PROOF. Arithmetic, logic, comparison, increment and decrement (41_arithmetic_logic.md R140 to R157). -/

namespace Sys2Proof.Machine

/-! ### Sign bits -/

/-- A byte under the sign mask, against 0, is the negation of its bit 7. -/
theorem and_signMask_beq_zero (x : Byte) : (x &&& 0x80 == 0) = !x.getLsbD 7 := by
  have h : x &&& 0x80 = if x.getLsbD 7 then 0x80 else 0 := BitVec.and_twoPow x 7
  rw [h]
  cases x.getLsbD 7 <;> rfl

/-- The test of ADC and SBC for two bytes of one sign. -/
theorem xor_and_signMask_beq_zero (a b : Byte) :
    ((a ^^^ b) &&& 0x80 == 0) = decide (128 ≤ a.toNat ↔ 128 ≤ b.toNat) := by
  rw [and_signMask_beq_zero, BitVec.getLsbD_xor, getLsbD_seven, getLsbD_seven, ← Bool.bne_eq_xor, bne,
    Bool.not_not, Bool.decide_beq_decide]

/-- A byte read as signed. -/
theorem toInt_byte (v : Byte) : v.toInt = if 128 ≤ v.toNat then (v.toNat : Int) - 256 else v.toNat := by
  rw [BitVec.toInt_eq_toNat_cond]
  split <;> split <;> omega

/-! ### ADC -/

section
variable (p a m : Byte) (c : Bool)

theorem toNat_adcResult : (adcResult a m c).toNat = (a.toNat + m.toNat + bit1 c) % 256 := BitVec.toNat_ofNat _ 8

theorem flagC_adcFlags : flagC (adcFlags p a m) = decide (255 < a.toNat + m.toNat + bit1 (flagC p)) := by
  rw [adcFlags, flagC_znFlags, flagC_withV, flagC_withC]
  rfl

theorem znOf_adcFlags : znOf (adcFlags p a m) (adcResult a m (flagC p)) := znOf_znFlags _ _

theorem flagV_adcFlags :
    flagV (adcFlags p a m) = true ↔ (128 ≤ a.toNat ↔ 128 ≤ m.toNat) ∧
      ¬(128 ≤ a.toNat ↔ 128 ≤ (adcResult a m (flagC p)).toNat) := by
  rw [adcFlags, flagV_znFlags, flagV_withV, bne, xor_and_signMask_beq_zero, xor_and_signMask_beq_zero,
    Bool.and_eq_true, Bool.not_eq_true', decide_eq_true_iff, decide_eq_false_iff_not]

/-- Operands of one sign and a result of the other: that is when the signed sum does not fit a byte. -/
theorem signed_sum_overflows_iff :
    ((128 ≤ a.toNat ↔ 128 ≤ m.toNat) ∧ ¬(128 ≤ a.toNat ↔ 128 ≤ (adcResult a m c).toNat)) ↔
      a.toInt + m.toInt + (if c then 1 else 0) < -128 ∨ 127 < a.toInt + m.toInt + (if c then 1 else 0) := by
  have ha := a.isLt
  have hm := m.isLt
  rw [toNat_adcResult, toInt_byte, toInt_byte]
  cases c <;> simp only [bit1, if_true, if_false, Bool.false_eq_true] <;> omega

/-! ### SBC -/

theorem toNat_sbcResult : ((sbcResult a m c).toNat : Int) = sbcDiff a m c % 256 := by
  rw [sbcResult, BitVec.toNat_ofInt]
  exact Int.toNat_of_nonneg (Int.emod_nonneg _ (by decide))

theorem flagC_sbcFlags : flagC (sbcFlags p a m) = decide (0 ≤ sbcDiff a m (flagC p)) := by
  rw [sbcFlags, flagC_znFlags, flagC_withV, flagC_withC]

theorem znOf_sbcFlags : znOf (sbcFlags p a m) (sbcResult a m (flagC p)) := znOf_znFlags _ _

theorem flagV_sbcFlags :
    flagV (sbcFlags p a m) = true ↔ ¬(128 ≤ a.toNat ↔ 128 ≤ (sbcResult a m (flagC p)).toNat) ∧
      ¬(128 ≤ a.toNat ↔ 128 ≤ m.toNat) := by
  rw [sbcFlags, flagV_znFlags, flagV_withV, bne, bne, xor_and_signMask_beq_zero, xor_and_signMask_beq_zero,
    Bool.and_eq_true, Bool.not_eq_true', Bool.not_eq_true', decide_eq_false_iff_not, decide_eq_false_iff_not]

theorem sbcDiff_eq : sbcDiff a m c = a.toNat - m.toNat - (if c then 0 else 1) := by
  cases c <;> rfl

/-- A result and an operand that both differ in sign from A: that is when the signed difference does not fit a byte. -/
theorem signed_difference_overflows_iff :
    (¬(128 ≤ a.toNat ↔ 128 ≤ (sbcResult a m c).toNat) ∧ ¬(128 ≤ a.toNat ↔ 128 ≤ m.toNat)) ↔
      a.toInt - m.toInt - (if c then 0 else 1) < -128 ∨ 127 < a.toInt - m.toInt - (if c then 0 else 1) := by
  have ha := a.isLt
  have hm := m.isLt
  have hr := toNat_sbcResult a m c
  rw [sbcDiff_eq] at hr
  rw [toInt_byte, toInt_byte]
  cases c <;> simp only [if_true, if_false, Bool.false_eq_true] at hr ⊢ <;> omega

/-! ### Subtracting is adding the complement -/

theorem xor_FF (m : Byte) : m ^^^ 0xFF = ~~~m := BitVec.xor_allOnes

theorem adcSum_complement : (adcSum a (m ^^^ 0xFF) c : Int) = sbcDiff a m c + 256 := by
  have hm := m.isLt
  rw [xor_FF, adcSum, sbcDiff, BitVec.toNat_not]
  omega

theorem adcResult_complement : adcResult a (m ^^^ 0xFF) c = sbcResult a m c := by
  apply BitVec.eq_of_toNat_eq
  have hr := toNat_sbcResult a m c
  have hsum := adcSum_complement a m c
  have h := BitVec.toNat_ofNat (adcSum a (m ^^^ 0xFF) c) 8
  rw [← adcResult] at h
  omega

/-- A has one sign with the complement of M exactly when it does not with M. -/
theorem xor_complement_and_signMask_beq_zero :
    ((a ^^^ (m ^^^ 0xFF)) &&& 0x80 == 0) = ((a ^^^ m) &&& 0x80 != 0) := by
  rw [bne, and_signMask_beq_zero, and_signMask_beq_zero, xor_FF, BitVec.getLsbD_xor, BitVec.getLsbD_xor,
    BitVec.getLsbD_not]
  cases a.getLsbD 7 <;> cases m.getLsbD 7 <;> rfl

theorem adcFlags_complement : adcFlags p a (m ^^^ 0xFF) = sbcFlags p a m := by
  have hcarry : decide (adcSum a (m ^^^ 0xFF) (flagC p) > 0xFF) = decide (sbcDiff a m (flagC p) ≥ 0) := by
    have hsum := adcSum_complement a m (flagC p)
    exact decide_eq_decide.2 (by omega)
  rw [adcFlags, sbcFlags, hcarry, adcResult_complement, xor_complement_and_signMask_beq_zero, Bool.and_comm]

end

/-! ### ADC and SBC as instructions

Here and below `State.operand_advancePast`, used from right to left, names the operand as the meaning loads it: in the
state past the instruction, where it is the same. -/

/-- Settles O40: A takes `adcResult`, P takes `adcFlags`, and the lemmas above read each flag off it. -/
theorem addWithCarry : Obligations.AddWithCarry := by
  intro s m
  rw [← s.operand_advancePast m m]
  exact ⟨_, rfl, rfl, toNat_adcResult _ _ _, flagC_adcFlags _ _ _, znOf_adcFlags _ _ _, flagV_adcFlags _ _ _,
    (flagV_adcFlags _ _ _).trans (signed_sum_overflows_iff _ _ _), fun _ => getLsbD_adcFlags_other _ _ _⟩

/-- Settles O41: A takes `sbcResult`, P takes `sbcFlags`, and the lemmas above read each flag off it. -/
theorem subtractWithBorrow : Obligations.SubtractWithBorrow := by
  intro s m
  rw [← s.operand_advancePast m m]
  simp only [← sbcDiff_eq]
  exact ⟨_, rfl, rfl, toNat_sbcResult _ _ _, flagC_sbcFlags _ _ _, znOf_sbcFlags _ _ _, flagV_sbcFlags _ _ _,
    (flagV_sbcFlags _ _ _).trans (signed_difference_overflows_iff _ _ _), fun _ => getLsbD_sbcFlags_other _ _ _⟩

/-- Settles O42: the integer results differ by 256, the sign tests by the negation of M's sign bit. -/
theorem subtractIsAddOfComplement : Obligations.SubtractIsAddOfComplement := by
  intro s m
  rw [← s.operand_advancePast m m]
  exact ⟨_, _, rfl, rfl, (adcResult_complement _ _ _).symm, (adcFlags_complement _ _ _).symm⟩

/-! ### Logic -/

/-- Settles O44: SetZN of the combined byte, after A took it. -/
theorem logicInstructions : Obligations.LogicInstructions := by
  intro s m
  rw [← s.operand_advancePast m m]
  exact ⟨⟨_, rfl, rfl, fun _ => BitVec.getLsbD_and, znOf_znFlags _ _, bitsKept_znFlags _ _⟩,
    ⟨_, rfl, rfl, fun _ => BitVec.getLsbD_or, znOf_znFlags _ _, bitsKept_znFlags _ _⟩,
    ⟨_, rfl, rfl, fun _ => BitVec.getLsbD_xor, znOf_znFlags _ _, bitsKept_znFlags _ _⟩⟩

/-! ### Comparison and bit test -/

/-- The low byte of a difference, which Compare takes Z and N from. -/
theorem toNat_ofInt_difference (r v : Byte) :
    (BitVec.ofInt 8 ((r.toNat : Int) - v.toNat)).toNat = (r.toNat + 256 - v.toNat) % 256 := by
  have hr := r.isLt
  have hv := v.isLt
  rw [BitVec.toNat_ofInt]
  omega

theorem flagC_compareFlags (p r v : Byte) : flagC (compareFlags p r v) = decide (v.toNat ≤ r.toNat) := by
  rw [compareFlags, flagC_znFlags, flagC_withC]

theorem flagN_compareFlags (p r v : Byte) :
    flagN (compareFlags p r v) = decide (128 ≤ (r.toNat + 256 - v.toNat) % 256) := by
  rw [compareFlags, flagN_znFlags, getLsbD_seven, toNat_ofInt_difference]

theorem flagZ_compareFlags (p r v : Byte) : flagZ (compareFlags p r v) = decide (r = v) := by
  obtain ⟨hz, _⟩ : znOf (compareFlags p r v) (BitVec.ofInt 8 ((r.toNat : Int) - v.toNat)) := znOf_znFlags _ _
  have hr := r.isLt
  have hv := v.isLt
  rw [hz, toNat_ofInt_difference, decide_eq_decide, ← BitVec.toNat_inj]
  omega

/-- Settles O45: the three differ in the register they compare. -/
theorem compareInstructions : Obligations.CompareInstructions := by
  intro s m v compared
  have hcompare (r : Byte) : compared r ((s.advancePast m).compare r v) :=
    ⟨rfl, flagC_compareFlags _ _ _, flagZ_compareFlags _ _ _, flagN_compareFlags _ _ _, bitsKept_compareFlags _ _ _⟩
  have hv : (s.advancePast m).operand m = v := s.operand_advancePast m m
  rw [← hv] at hcompare
  exact ⟨⟨_, rfl, hcompare s.a⟩, ⟨_, rfl, hcompare s.x⟩, ⟨_, rfl, hcompare s.y⟩⟩

theorem bitsKept.mono {l l' : List Nat} {p q : Byte} (h : bitsKept l p q) (hl : l ⊆ l') : bitsKept l' p q :=
  fun k hk => h k fun hmem => hk (hl hmem)

theorem flagN_bitFlags (p a v : Byte) : flagN (bitFlags p a v) = v.getLsbD 7 := by
  rw [flagN, getLsbD_bitFlags]; rfl

theorem flagV_bitFlags (p a v : Byte) : flagV (bitFlags p a v) = v.getLsbD 6 := by
  rw [flagV, getLsbD_bitFlags]; rfl

theorem flagZ_bitFlags (p a v : Byte) :
    flagZ (bitFlags p a v) = true ↔ ∀ k, k < 8 → (a.getLsbD k && v.getLsbD k) = false := by
  have hz : flagZ (bitFlags p a v) = (a &&& v == 0) := by rw [flagZ, getLsbD_bitFlags]; rfl
  rw [hz, beq_iff_eq, BitVec.eq_of_getLsbD_eq_iff]
  simp only [BitVec.ofNat_eq_ofNat, BitVec.getLsbD_and, BitVec.getLsbD_zero]

/-- Settles O46: BIT's flags, each read off `bitFlags`. -/
theorem bitTestInstruction : Obligations.BitTestInstruction := by
  intro s m
  rw [← s.operand_advancePast m m]
  exact ⟨_, rfl, rfl, flagZ_bitFlags _ _ _, flagN_bitFlags _ _ _, flagV_bitFlags _ _ _,
    (bitsKept_bitFlags _ _ _).mono (by decide)⟩

/-! ### Increment and decrement -/

theorem toNat_sub_one (v : Byte) : (v - 1).toNat = (v.toNat + 255) % 256 :=
  (BitVec.toNat_sub v 1).trans (by rw [Nat.add_comm]; rfl)

/-- SetZN of a new byte and the store of it through the operand, the end of INC and DEC. -/
theorem writeEffect_setZN {s : State} (m : Operand) (new : Byte) (hs : s.inv = true) :
    writeEffect s (((s.advancePast m).setZN new).store ((s.advancePast m).resolve m) new) m (znFlags s.p new) new := by
  obtain ⟨hp, _⟩ := s.inv_iff.1 hs
  rw [State.resolve_advancePast]
  exact writeEffect_store m new hs ((flagU_znFlags s.p new).trans hp)

/-- Settles O47: the new byte, SetZN of it, and its store through the operand. -/
theorem incrementDecrementMemory : Obligations.IncrementDecrementMemory := by
  intro s m hs
  rw [← s.operand_advancePast m m]
  exact ⟨⟨_, _, _, rfl, BitVec.toNat_add _ 1, znOf_znFlags _ _, bitsKept_znFlags _ _, writeEffect_setZN m _ hs⟩,
    ⟨_, _, _, rfl, toNat_sub_one _, znOf_znFlags _ _, bitsKept_znFlags _ _, writeEffect_setZN m _ hs⟩⟩

/-- Settles O48: the new byte and SetZN of it. -/
theorem incrementDecrementRegisters : Obligations.IncrementDecrementRegisters := by
  intro s
  exact ⟨⟨_, rfl, rfl, BitVec.toNat_add _ 1, znOf_znFlags _ _, bitsKept_znFlags _ _⟩,
    ⟨_, rfl, rfl, BitVec.toNat_add _ 1, znOf_znFlags _ _, bitsKept_znFlags _ _⟩,
    ⟨_, rfl, rfl, toNat_sub_one _, znOf_znFlags _ _, bitsKept_znFlags _ _⟩,
    ⟨_, rfl, rfl, toNat_sub_one _, znOf_znFlags _ _, bitsKept_znFlags _ _⟩⟩

end Sys2Proof.Machine
end

section
/-! PROOF. Shifts and rotates (42_shift_rotate.md R165 to R169). -/

namespace Sys2Proof.Machine

/-! ### The new byte: the entering bit lands in the place the shift left empty -/

/-- The entering bit as a byte has that bit at place 0 and 0 elsewhere. -/
theorem getLsbD_ofNat_bit1 (c : Bool) (k : Nat) :
    (BitVec.ofNat 8 (bit1 c)).getLsbD k = (decide (k = 0) && c) := by
  cases c with
  | false => exact BitVec.getLsbD_zero.trans (Bool.and_false _).symm
  | true => exact (getLsbD_mask 0 (by decide)).trans (Bool.and_true _).symm

theorem shiftedLeft_rolByte (v : Byte) (c : Bool) : shiftedLeft v (rolByte v c) c := by
  refine ⟨?_, fun k hk => ?_⟩ <;> rw [rolByte, BitVec.getLsbD_or, BitVec.getLsbD_shiftLeft, getLsbD_ofNat_bit1]
  · simp
  · simp [Nat.succ_lt_succ hk]

theorem shiftedRight_rorByte (v : Byte) (c : Bool) : shiftedRight v (rorByte v c) c := by
  refine ⟨?_, fun k hk => ?_⟩ <;>
    rw [rorByte, BitVec.getLsbD_or, BitVec.getLsbD_ushiftRight, BitVec.getLsbD_shiftLeft, getLsbD_ofNat_bit1]
  · simp
  · simp [hk, Nat.add_comm]

/-- ASL is ROL with 0 entering. -/
theorem rolByte_false (v : Byte) : rolByte v false = aslByte v := BitVec.or_zero

/-- LSR is ROR with 0 entering. -/
theorem rorByte_false (v : Byte) : rorByte v false = lsrByte v := BitVec.or_zero

theorem shiftedLeft_aslByte (v : Byte) : shiftedLeft v (aslByte v) false :=
  rolByte_false v ▸ shiftedLeft_rolByte v false

theorem shiftedRight_lsrByte (v : Byte) : shiftedRight v (lsrByte v) false :=
  rorByte_false v ▸ shiftedRight_rorByte v false

/-! ### The flags and the write back -/

theorem flagC_shiftFlags (p : Byte) (c : Bool) (new : Byte) : flagC (shiftFlags p c new) = c := by
  rw [shiftFlags, flagC_znFlags, flagC_withC]

theorem flagU_shiftFlags (p : Byte) (c : Bool) (new : Byte) : flagU (shiftFlags p c new) = flagU p := by
  rw [shiftFlags, flagU_znFlags, flagU_withC]

/-- The flags of a shift and then the store of the new byte through the operand, the end of all four. -/
theorem shiftEffect_shiftFlags {s : State} (m : Operand) (new : Byte) (c : Bool) (hs : s.inv = true) :
    shiftEffect s (((s.advancePast m).setP (shiftFlags s.p c new)).store ((s.advancePast m).resolve m) new)
      m new c := by
  obtain ⟨hp, _⟩ := s.inv_iff.1 hs
  have hu : flagU (shiftFlags s.p c new) = true := (flagU_shiftFlags s.p c new).trans hp
  rw [State.resolve_advancePast]
  exact ⟨_, flagC_shiftFlags _ _ _, znOf_znFlags _ _, bitsKept_shiftFlags _ _ _, writeEffect_store m new hs hu⟩

/-- Settles O49: the new byte, its flags with the bit that left in C, and its store through the operand. -/
theorem shiftAndRotateInstructions : Obligations.ShiftAndRotateInstructions := by
  intro s m hs
  rw [← s.operand_advancePast m m]
  exact ⟨⟨_, _, rfl, shiftedLeft_aslByte _, shiftEffect_shiftFlags m _ _ hs⟩,
    ⟨_, _, rfl, shiftedRight_lsrByte _, shiftEffect_shiftFlags m _ _ hs⟩,
    ⟨_, _, rfl, shiftedLeft_rolByte _ _, shiftEffect_shiftFlags m _ _ hs⟩,
    ⟨_, _, rfl, shiftedRight_rorByte _ _, shiftEffect_shiftFlags m _ _ hs⟩⟩

end Sys2Proof.Machine
end

section
/-! PROOF. The stack and the flag instructions (43_stack_flags.md R175 to R189). -/

namespace Sys2Proof.Machine

/-! ### One byte pushed and pulled -/

theorem toNat_add_one (v : Byte) : (v + 1).toNat = (v.toNat + 1) % 256 := BitVec.toNat_add v 1

theorem writtenAt_write {m : Memory} (i : Nat) (v : Byte) (hm : Memory.wf m = true) :
    writtenAt m (Memory.write m i v) i v := fun k => Memory.read_write i k v hm

/-- A pull right after a push gives the byte pushed and undoes the push but for the byte it left in RAM. -/
theorem State.pop8_push8 {s : State} (v : Byte) (h : Memory.wf s.ram = true) :
    (s.push8 v).pop8 = (v, { s.push8 v with sp := s.sp }) := by
  rw [State.pop8_eq, State.push8_sp, sub_add_cancel, ← State.memRead_stack, State.memRead_push8 v h]

/-- Settles O35: the push and the pull each as one record update, and the two composed. -/
theorem pushThenPull : Obligations.PushThenPull := by
  intro s v hwf
  rw [← toNat_add_one, State.pop8_push8 v hwf]
  exact ⟨⟨_, s.push8_eq v, rfl, toNat_sub_one s.sp, writtenAt_write _ v hwf⟩, ⟨_, s.pop8_eq, rfl, rfl⟩, rfl, rfl⟩

/-! ### A word pushed and pulled -/

/-- The two slots of a word push differ, the wrap from S = 0x00 to S = 0xFF included. -/
theorem stackSlot_ne_stackSlot_sub_one (sp : Byte) : 0x100 + sp.toNat ≠ 0x100 + (sp - 1).toNat := by
  have h := sp.isLt
  rw [toNat_sub_one]
  omega

/-- RAM after a word push: the high byte in the slot S designated, the low byte in the one below. -/
theorem State.read_push16 {s : State} (w : Word) (h : Memory.wf s.ram = true) (k : Nat) :
    Memory.read (s.push16 w).ram k =
      if k = 0x100 + s.sp.toNat then hiByte w
      else if k = 0x100 + (s.sp - 1).toNat then loByte w else Memory.read s.ram k := by
  rw [State.push16_eq, Memory.read_write _ k _ (Memory.wf_write _ _ h), Memory.read_write _ k _ h]
  by_cases hk : k = 0x100 + s.sp.toNat
  · rw [if_neg (hk ▸ stackSlot_ne_stackSlot_sub_one s.sp), if_pos hk, if_pos hk]
  · rw [if_neg hk, if_neg hk]

/-- A word pull right after a word push gives the word and undoes the push but for the bytes it left in RAM. -/
theorem State.pop16_push16 {s : State} (w : Word) (h : Memory.wf s.ram = true) :
    (s.push16 w).pop16 = (w, { s.push16 w with sp := s.sp }) := by
  have hhi : Memory.read (s.push16 w).ram (0x100 + s.sp.toNat) = hiByte w := by
    rw [State.read_push16 w h, if_pos rfl]
  have hlo : Memory.read (s.push16 w).ram (0x100 + (s.sp - 1).toNat) = loByte w := by
    rw [State.read_push16 w h, if_neg (stackSlot_ne_stackSlot_sub_one s.sp).symm, if_pos rfl]
  rw [State.pop16_eq, State.push16_sp, sub_add_cancel, sub_add_cancel, hhi, hlo, wordOf_bytes]

/-- Settles O36: RAM after the push, and the pull of it. -/
theorem wordPushThenPull : Obligations.WordPushThenPull := by
  intro s w hwf
  rw [State.pop16_push16 w hwf, ← toNat_sub_one]
  exact ⟨State.read_push16 w hwf, rfl, rfl⟩

/-! ### The stack instructions -/

theorem flagB_pushedWithBreak (p : Byte) : flagB (pushedWithBreak p) = true := by
  rw [flagB, getLsbD_pushedWithBreak]; rfl

theorem bitsKept_pushedWithBreak (p : Byte) : bitsKept [4] p (pushedWithBreak p) := fun k hk => by
  rw [getLsbD_pushedWithBreak, if_neg (List.ne_of_not_mem_cons hk)]

theorem bitsKept_pulledStatus (v : Byte) : bitsKept [4, 5] v (pulledStatus v) := fun k hk => by
  simp only [List.mem_cons, List.not_mem_nil, or_false, not_or] at hk
  simp only [getLsbD_pulledStatus, hk, if_false]

/-- Settles O50: one push each for PHA and PHP; PLA and PLP take the byte of one pull. -/
theorem stackInstructions : Obligations.StackInstructions := by
  intro s hs top
  obtain ⟨hp, _⟩ := s.inv_iff.1 hs
  have hwf := s.wf_ram_of_inv hs
  have hpush (v : Byte) := congrArg (Host.Outcome.next : State → Result) ((s.advance 1).push8_eq v)
  have htop : (s.advance 1).pop8.1 = top := congrArg Prod.fst (s.advance 1).pop8_eq
  rw [← htop]
  exact ⟨⟨_, hpush s.a, rfl, writtenAt_write _ _ hwf⟩,
    ⟨_, _, hpush (pushedWithBreak s.p), rfl, writtenAt_write _ _ hwf, flagB_pushedWithBreak _,
      (flagU_pushedWithBreak _).trans hp, bitsKept_pushedWithBreak _⟩,
    ⟨_, rfl, State.setZN_effect _ _⟩,
    ⟨_, rfl, rfl, flagB_pulledStatus _, flagU_pulledStatus _, bitsKept_pulledStatus _⟩⟩

/-! ### The flag instructions -/

/-- Settles O51: each is one replacement of its bit of P, by 0 or by 1. -/
theorem flagInstructions : Obligations.FlagInstructions := by
  intro s
  exact ⟨⟨_, rfl, rfl, flagC_withC _ _, bitsKept_withC _ _⟩, ⟨_, rfl, rfl, flagC_withC _ _, bitsKept_withC _ _⟩,
    ⟨_, rfl, rfl, flagI_withI _ _, bitsKept_withI _ _⟩, ⟨_, rfl, rfl, flagI_withI _ _, bitsKept_withI _ _⟩,
    ⟨_, rfl, rfl, flagD_withD _ _, bitsKept_withD _ _⟩, ⟨_, rfl, rfl, flagD_withD _ _, bitsKept_withD _ _⟩,
    ⟨_, rfl, rfl, flagV_withV _ _, bitsKept_withV _ _⟩⟩

end Sys2Proof.Machine
end

section
/-! PROOF. Jumps, subroutines and branches (44_control_flow.md R195 to R207). -/

namespace Sys2Proof.Machine

/-! ### Jumps -/

theorem wordOf_and_wordOf (hi lo hi' lo' : Byte) :
    wordOf hi lo &&& wordOf hi' lo' = wordOf (hi &&& hi') (lo &&& lo') := BitVec.and_append

theorem wordOf_or_wordOf (hi lo hi' lo' : Byte) :
    wordOf hi lo ||| wordOf hi' lo' = wordOf (hi ||| hi') (lo ||| lo') := BitVec.or_append

/-- The masks of the page bug pick the page of one word and the offset of the other. -/
theorem and_FF00_or_and_00FF (w v : Word) : w &&& 0xFF00#16 ||| v &&& 0x00FF#16 = wordOf (hiByte w) (loByte v) :=
  calc w &&& 0xFF00#16 ||| v &&& 0x00FF#16
      = wordOf (hiByte w) (loByte w) &&& wordOf (BitVec.allOnes 8) 0#8 |||
          wordOf (hiByte v) (loByte v) &&& wordOf 0#8 (BitVec.allOnes 8) := by
        rw [wordOf_bytes, wordOf_bytes]; rfl
    _ = wordOf (hiByte w) (loByte v) := by
        simp only [wordOf_and_wordOf, wordOf_or_wordOf, BitVec.and_allOnes, BitVec.and_zero, BitVec.or_zero,
          BitVec.zero_or]

/-- Where JMP indirect loads the high byte: the next byte of the pointer's page with the page bug, the byte at the
next address without it (R196, decision D6). -/
def State.indirectHighAddress (s : State) (ptr : Word) : Word :=
  if s.params.jmpIndirectPageBug then wordOf (hiByte ptr) (loByte (ptr + 1)) else ptr + 1

theorem State.indirectTarget_eq (s : State) (ptr : Word) :
    s.indirectTarget ptr = wordOf (s.memRead (s.indirectHighAddress ptr)) (s.memRead ptr) := by
  rw [State.indirectTarget, State.indirectHighAddress, and_FF00_or_and_00FF]
  split <;> rfl

theorem State.indirectHighAddress_pageBug {s : State} (ptr : Word) (h : s.params.jmpIndirectPageBug = true) :
    s.indirectHighAddress ptr = BitVec.ofNat 16 (ptr.toNat / 256 * 256 + (ptr.toNat + 1) % 256) := by
  rw [State.indirectHighAddress, if_pos h]
  apply BitVec.eq_of_toNat_eq
  have hlt := ptr.isLt
  have hnext : (ptr + 1).toNat = (ptr.toNat + 1) % 0x10000 := BitVec.toNat_add ptr 1
  rw [toNat_wordOf, toNat_hiByte, toNat_loByte, hnext, BitVec.toNat_ofNat]
  omega

theorem State.indirectHighAddress_plain {s : State} (ptr : Word) (h : s.params.jmpIndirectPageBug = false) :
    s.indirectHighAddress ptr = BitVec.ofNat 16 ((ptr.toNat + 1) % 0x10000) := by
  rw [State.indirectHighAddress, h, if_neg Bool.false_ne_true]
  exact add_zext16 ptr 1

/-- Settles O52: the target is the word of two loads, and the setting of the page bug places the second. -/
theorem jumpInstructions : Obligations.JumpInstructions := by
  intro s w
  have htarget := s.indirectTarget_eq w
  have hlo : (s.indirectTarget w).toNat % 256 = (s.memRead w).toNat := by
    rw [← toNat_loByte, htarget, loByte_wordOf]
  have hhi : (s.indirectTarget w).toNat / 256 = (s.memRead (s.indirectHighAddress w)).toNat := by
    rw [← toNat_hiByte, htarget, hiByte_wordOf]
  exact ⟨rfl, _, rfl, rfl, hlo, fun hbug => hhi.trans (by rw [State.indirectHighAddress_pageBug w hbug]),
    fun hplain => hhi.trans (by rw [State.indirectHighAddress_plain w hplain])⟩

/-! ### Subroutines -/

/-- A word push takes no notice of PC. -/
theorem State.push16_setPc (s : State) (pc w : Word) : (s.setPc pc).push16 w = (s.push16 w).setPc pc := by
  rw [State.push16_eq, State.push16_eq]
  rfl

/-- A word pull takes no notice of PC. -/
theorem State.pop16_setPc (s : State) (pc : Word) : (s.setPc pc).pop16 = (s.pop16.1, s.pop16.2.setPc pc) := by
  rw [State.pop16_eq, State.pop16_eq]
  rfl

/-- JSR as one word push and a jump: PC past the instruction, less one, is the address of its last byte. -/
theorem exec_jsr (s : State) (target : Word) :
    exec (.jsr target) s = .next ((s.push16 (s.pc + 2)).setPc target) := by
  have hret : (s.advance 3).pc - 1 = s.pc + 2 := add_sub_assoc s.pc 3 1
  have hpush : (s.advance 3).push16 (s.pc + 2) = (s.push16 (s.pc + 2)).setPc (s.advance 3).pc := s.push16_setPc _ _
  rw [exec, execJsr, hret, hpush]
  rfl

/-- RTS as one word pull and a jump to the address after the word. -/
theorem exec_rts (s : State) : exec .rts s = .next (s.pop16.2.setPc (s.pop16.1 + 1)) := by
  have hpull : (s.advance 1).pop16 = (s.pop16.1, s.pop16.2.setPc (s.advance 1).pc) := s.pop16_setPc _
  rw [exec, execRts, hpull]
  rfl

/-- RTS pulls what JSR pushed: it ends past the JSR with the S from before it. -/
theorem exec_rts_after_push16 {s : State} (target : Word) (h : Memory.wf s.ram = true) :
    exec .rts ((s.push16 (s.pc + 2)).setPc target) =
      .next { s.push16 (s.pc + 2) with sp := s.sp, pc := s.pc + 3 } := by
  have hback : s.pc + 2 + 1 = s.pc + 3 := add_assoc s.pc 2 1
  rw [exec_rts, State.pop16_setPc, State.pop16_push16 _ h, hback]
  rfl

/-- Settles O53: the word push of JSR, the word pull of RTS, and the pull after the push. -/
theorem subroutineCallAndReturn : Obligations.SubroutineCallAndReturn := by
  intro s w hs
  have hwf := s.wf_ram_of_inv hs
  have hdown : s.sp - 1 - 1 = s.sp - 2 := sub_sub s.sp 1 1
  have hup : s.sp + 1 + 1 = s.sp + 2 := add_assoc s.sp 1 1
  refine ⟨⟨_, exec_jsr s w, ?_, State.read_push16 _ hwf, _, exec_rts_after_push16 w hwf, rfl⟩, _, exec_rts s, ?_, ?_⟩
  · rw [State.push16_eq, hdown]
    rfl
  · rw [State.pop16_eq, hup]
    rfl
  · rw [State.setPc_pc, State.pop16_eq, hup, BitVec.toNat_add, toNat_wordOf, Nat.mul_comm, Nat.add_comm (256 * _)]
    rfl

/-! ### Branches -/

/-- The sum with a displacement, in integers: signed, and modulo 2^16 (30_encoding.md R105, decision D3). -/
theorem toNat_add_sext16 (w : Word) (d : Byte) :
    ((w + sext16 d).toNat : Int) =
      (w.toNat + (if d.toNat < 0x80 then (d.toNat : Int) else (d.toNat : Int) - 0x100)) % 0x10000 := by
  rw [← toInt_sext16, BitVec.toNat_add, BitVec.toInt_eq_toNat_cond]
  split <;> omega

/-- `Branch(cond)` from past the two bytes of a branch, taken and not taken. -/
theorem branchEffect_branch (s : State) (d : Byte) (cond : Bool) :
    branchEffect s ((s.advance 2).branch cond d) d cond := by
  have hnext : ((s.pc + 2).toNat : Int) = ((s.pc.toNat : Int) + 2) % 0x10000 :=
    congrArg Nat.cast (BitVec.toNat_add s.pc 2)
  cases cond with
  | false => exact ⟨rfl, hnext.trans (by rw [if_neg Bool.false_ne_true, add_zero])⟩
  | true =>
    refine ⟨rfl, (toNat_add_sext16 (s.pc + 2) d).trans ?_⟩
    rw [hnext, Int.emod_add_emod, if_pos rfl]

/-- Settles O54: the eight differ in the flag they test and the value it must have. -/
theorem branchInstructions : Obligations.BranchInstructions := by
  intro s d
  have heffect := branchEffect_branch s d
  exact ⟨⟨_, rfl, heffect _⟩, ⟨_, rfl, heffect _⟩, ⟨_, rfl, heffect _⟩, ⟨_, rfl, heffect _⟩, ⟨_, rfl, heffect _⟩,
    ⟨_, rfl, heffect _⟩, ⟨_, rfl, heffect _⟩, ⟨_, rfl, heffect _⟩⟩

end Sys2Proof.Machine
end

section
/-! PROOF. Traps, the return from them, and the no-ops (45_system.md R215 to R218). -/

namespace Sys2Proof.Machine

/-! ### Taking a trap -/

/-- A load from the Mapper's range depends on the image and the Mapper alone. -/
theorem State.memRead_mapper_congr {s t : State} {a : Word} (ha : 0x6000 ≤ a.toNat) (hi : t.image = s.image)
    (hm : t.mapper = s.mapper) : t.memRead a = s.memRead a := by
  rw [State.memRead_mapper ha, State.memRead_mapper ha, State.prgLoad, State.prgLoad, hi, hm]

/-- A trap loads PC after its three pushes, which touch neither byte of a vector in the Mapper's range. -/
theorem State.takeTrap_pc {vector : Word} (s : State) (ret : Word) (status : Byte) (hlo : 0x6000 ≤ vector.toNat)
    (hhi : 0x6000 ≤ (vector + 1).toNat) : (s.takeTrap ret status vector).pc = s.memReadWord vector := by
  rw [State.takeTrap, State.push8_eq, State.push16_eq, State.setPc_pc]
  exact congrArg₂ wordOf (State.memRead_mapper_congr hhi rfl rfl) (State.memRead_mapper_congr hlo rfl rfl)

/-- RAM after a trap: the return address in the upper two slots, high byte first, the status byte in the third. -/
theorem State.read_takeTrap {s : State} (ret : Word) (status : Byte) (vector : Word) (h : Memory.wf s.ram = true)
    (k : Nat) :
    Memory.read (s.takeTrap ret status vector).ram k =
      if k = 0x100 + (s.sp - 2).toNat then status
      else if k = 0x100 + (s.sp - 1).toNat then loByte ret
      else if k = 0x100 + s.sp.toNat then hiByte ret
      else Memory.read s.ram k := by
  obtain ⟨_, e⟩ := s.takeTrap_eq ret status vector
  have hthird : s.sp - 1 - 1 = s.sp - 2 := sub_sub s.sp 1 1
  have hwf := Memory.wf_write (0x100 + s.sp.toNat) (hiByte ret) h
  rw [e, hthird, Memory.read_write _ k _ (Memory.wf_write _ _ hwf), Memory.read_write _ k _ hwf,
    Memory.read_write _ k _ h]

theorem trapEffect_takeTrap {s : State} {vector : Word} (ret : Word) (status : Byte) (h : Memory.wf s.ram = true)
    (hlo : 0x6000 ≤ vector.toNat) (hhi : 0x6000 ≤ (vector + 1).toNat) :
    trapEffect s (s.takeTrap ret status vector) ret status vector := by
  refine ⟨?_, State.read_takeTrap ret status vector h, ?_, ?_, ?_⟩
  · have hdown : s.sp - 1 - 1 - 1 = s.sp - 3 := by rw [sub_sub, sub_sub]; rfl
    obtain ⟨_, e⟩ := s.takeTrap_eq ret status vector
    rw [e, hdown]
  · rw [State.takeTrap_p, flagI_withI]
  · rw [State.takeTrap_p]
    exact bitsKept_withI s.p true
  · rw [State.takeTrap_pc s ret status hlo hhi, State.toNat_memReadWord, Nat.add_comm, Nat.mul_comm]

/-- A trap takes no notice of PC. -/
theorem State.takeTrap_setPc (s : State) (pc ret : Word) (status : Byte) (vector : Word) :
    (s.setPc pc).takeTrap ret status vector = s.takeTrap ret status vector := by
  rw [State.takeTrap, State.takeTrap, State.push16_setPc, State.push8_eq, State.push8_eq]
  rfl

/-- BRK as one trap: PC past the opcode byte, plus 1, is past the padding byte. -/
theorem exec_brk (s : State) :
    exec .brk s = .next (s.takeTrap (s.pc + 2) (pushedWithBreak s.p) Config.brkVector) := by
  have hret : (s.advance 1).pc + 1 = s.pc + 2 := add_assoc s.pc 1 1
  rw [exec, execBrk, hret, State.advance, State.takeTrap_setPc]
  rfl

/-- Settles O55: BRK is one trap through 0xFFFE. -/
theorem breakTakesTrap : Obligations.BreakTakesTrap := fun s hs =>
  ⟨_, _, exec_brk s, trapEffect_takeTrap _ _ (s.wf_ram_of_inv hs) (by decide) (by decide), flagB_pushedWithBreak s.p,
    bitsKept_pushedWithBreak s.p⟩

/-! ### Returning from a trap -/

/-- RTI as one return: what is pulled does not depend on PC. -/
theorem exec_rti (s : State) : exec .rti s = .next s.returnFromTrap := by
  rw [exec, execRti, State.returnFromTrap_eq, State.returnFromTrap_eq]
  rfl

/-- Two slots of the stack page differ when their stack pointers do, modulo 256. -/
theorem stackSlot_ne_stackSlot {sp sp' : Byte} (h : sp ≠ sp') : 0x100 + sp.toNat ≠ 0x100 + sp'.toNat :=
  fun e => h (BitVec.eq_of_toNat_eq (Nat.add_left_cancel e))

/-- A return right after a trap pulls what the trap pushed and undoes the trap but for the bytes it left in RAM and the
mask on the status byte. -/
theorem State.returnFromTrap_takeTrap {s : State} (ret : Word) (status : Byte) (vector : Word)
    (h : Memory.wf s.ram = true) :
    (s.takeTrap ret status vector).returnFromTrap =
      { s.takeTrap ret status vector with sp := s.sp, p := pulledStatus status, pc := ret } := by
  have hdown : s.sp - 1 - 1 = s.sp - 2 := sub_sub s.sp 1 1
  have hlo_ne : 0x100 + (s.sp - 1).toNat ≠ 0x100 + (s.sp - 2).toNat :=
    hdown ▸ stackSlot_ne_stackSlot_sub_one (s.sp - 1)
  have hhi_ne : 0x100 + s.sp.toNat ≠ 0x100 + (s.sp - 2).toNat := stackSlot_ne_stackSlot (by bv_omega)
  have hread := State.read_takeTrap ret status vector h
  have hstatus := (hread (0x100 + (s.sp - 2).toNat)).trans (if_pos rfl)
  have hlo : Memory.read (s.takeTrap ret status vector).ram (0x100 + (s.sp - 1).toNat) = loByte ret := by
    rw [hread, if_neg hlo_ne, if_pos rfl]
  have hhi : Memory.read (s.takeTrap ret status vector).ram (0x100 + s.sp.toNat) = hiByte ret := by
    rw [hread, if_neg hhi_ne, if_neg (stackSlot_ne_stackSlot_sub_one s.sp), if_pos rfl]
  rw [State.returnFromTrap_eq, State.takeTrap_sp, sub_add_cancel, sub_add_cancel, sub_add_cancel, hdown, hstatus, hlo,
    hhi, wordOf_bytes]

/-- The mask of RTI on the status byte of a BRK clears bit 4 and gives back every other bit, bit 5 because it is 1 in
P. -/
theorem bitsKept_pulledStatus_pushedWithBreak {p : Byte} (h : flagU p = true) :
    bitsKept [4] p (pulledStatus (pushedWithBreak p)) := fun k hk => by
  rw [getLsbD_pulledStatus, if_neg (List.ne_of_not_mem_cons hk)]
  by_cases h5 : k = 5
  · rw [if_pos h5, h5]
    exact h.symm
  · rw [if_neg h5]
    exact bitsKept_pushedWithBreak p k hk

/-- Settles O56: RTI is one return, and the return undoes the trap of BRK. -/
theorem returnFromInterrupt : Obligations.ReturnFromInterrupt := by
  refine ⟨fun s => ?_, fun s hs => ?_⟩
  · have hsecond : s.sp + 1 + 1 = s.sp + 2 := add_assoc s.sp 1 1
    have hthird : s.sp + 2 + 1 = s.sp + 3 := add_assoc s.sp 2 1
    refine ⟨_, exec_rti s, ?_⟩
    rw [State.returnFromTrap_eq, hsecond, hthird]
    exact ⟨rfl, flagB_pulledStatus _, flagU_pulledStatus _, bitsKept_pulledStatus _, by
      rw [toNat_wordOf, Nat.add_comm, Nat.mul_comm]⟩
  · obtain ⟨hp, _⟩ := s.inv_iff.1 hs
    refine ⟨_, _, exec_brk s, exec_rti _, ?_⟩
    rw [State.returnFromTrap_takeTrap _ _ _ (s.wf_ram_of_inv hs)]
    exact ⟨rfl, flagB_pulledStatus _, bitsKept_pulledStatus_pushedWithBreak hp⟩

/-! ### The no-ops -/

/-- The operand of a no-op of each length, from the bytes after its opcode. -/
def nopOperandOf (lo hi : Byte) : NopLength → NopOperand
  | .one => .none
  | .two => .byte lo
  | .three => .word (wordOf hi lo)

/-- Members of the no-op set of one length, none an official opcode, decode to no-ops of that length. -/
theorem decodeBytes_eq_unofficialNop {nops : NopSet} {members : List Byte} {n : NopLength} {op : Byte} (lo hi : Byte)
    (h : ∀ op ∈ members, officialOpcodes.contains op = false ∧ nops.lengthOf op = some n) (hop : op ∈ members) :
    decodeBytes nops op lo hi = .unofficialNop op (nopOperandOf lo hi n) := by
  obtain ⟨hoff, hlen⟩ := h op hop
  rw [decodeBytes, decodeOfficial_eq_none hoff, hlen]
  cases n <;> rfl

/-- Settles O57: a no-op advances PC by its length, and each byte of the three lists is a member of that length. -/
theorem noOperations : Obligations.NoOperations := by
  refine ⟨fun _ => rfl, fun _ _ _ _ => ⟨rfl, rfl, rfl⟩, fun op lo hi => ⟨?_, ?_, ?_⟩⟩
  · exact decodeBytes_eq_unofficialNop (n := .one) lo hi (by decide)
  · exact decodeBytes_eq_unofficialNop (n := .two) lo hi (by decide)
  · exact decodeBytes_eq_unofficialNop (n := .three) lo hi (by decide)

end Sys2Proof.Machine
end

section
/-! PROOF. Fatal conditions, construction's refusals and the NMI (60_exceptions.md R230 to R238, 20_memory.md R62,
10_state.md R26). -/

namespace Sys2Proof.Machine

/-! ### Steps of a running machine -/

theorem step_eq_takeNmi {s : State} (hrun : s.status = .running) (hdue : s.boundary.nmiDue = true) :
    step s = .next s.boundary.takeNmi := by
  rcases step_cases s with ⟨_, hhalted, _⟩ | ⟨_, _, e⟩ | ⟨_, hno, _⟩
  · cases hrun.symm.trans hhalted
  · exact e
  · cases hdue.symm.trans hno

theorem step_eq_exec {s : State} (hrun : s.status = .running) (hdue : s.boundary.nmiDue = false) :
    step s = exec s.boundary.fetchInstr s.boundary := by
  rcases step_cases s with ⟨_, hhalted, _⟩ | ⟨_, hyes, _⟩ | ⟨_, _, e⟩
  · cases hrun.symm.trans hhalted
  · cases hdue.symm.trans hyes
  · exact e

/-- Settles O8: a running machine takes the NMI or runs an instruction, and no meaning faults or is refused. -/
theorem runningMachineNeverFaults : Obligations.RunningMachineNeverFaults := by
  intro s hrun
  cases hdue : s.boundary.nmiDue with
  | true => exact ⟨_, step_eq_takeNmi hrun hdue⟩
  | false => exact ⟨_, (step_eq_exec hrun hdue).trans (exec_eq_next_after _ _)⟩

/-! ### Unimplemented opcodes -/

theorem State.boundary_pc (s : State) : s.boundary.pc = s.pc := by rw [State.boundary_eq]

theorem State.boundary_params (s : State) : s.boundary.params = s.params := by rw [State.boundary_eq]

theorem State.boundary_status (s : State) : s.boundary.status = s.status := by rw [State.boundary_eq]

theorem State.takeNmi_status (s : State) : s.takeNmi.status = s.status :=
  State.takeTrap_status { s with nmiPending := false } _ _ _

theorem State.wf_fetchInstr (s : State) : s.fetchInstr.wf s.params.nopSet = true := by
  rw [State.fetchInstr_eq]
  exact wf_decodeBytes _ _ _ _

/-- The whole effect of an unimplemented opcode. -/
theorem exec_illegal (s : State) (op : Byte) :
    exec (.illegal op) s = .next ((s.advance 1).raiseFatal (.unimplementedOpcode op (s.advance 1).registerDump)) :=
  rfl

/-- Settles O9: an NMI keeps the status, and so does every well-formed instruction but an unimplemented opcode. -/
theorem onlyUnimplementedOpcodesHalt : Obligations.OnlyUnimplementedOpcodesHalt := by
  intro s t why hrun h hhalt
  have hb : s.boundary.status = .running := s.boundary_status.trans hrun
  cases hdue : s.boundary.nmiDue with
  | true =>
    cases (step_eq_takeNmi hrun hdue).symm.trans h
    cases ((State.takeNmi_status _).trans hb).symm.trans hhalt
  | false =>
    rw [step_eq_exec hrun hdue] at h
    by_cases hill : ∃ op, s.boundary.fetchInstr = .illegal op
    · obtain ⟨op, hop⟩ := hill
      rw [hop, exec_illegal] at h
      cases h
      cases hhalt
      exact ⟨op, rfl, hop, rfl, by rw [← s.boundary_pc]; rfl⟩
    · have hkeep := s.boundary.after_status s.boundary.wf_fetchInstr (not_exists.1 hill)
      rw [exec_eq_next_iff.1 h, hb] at hkeep
      cases hkeep.symm.trans hhalt

/-- A byte that is no official opcode and no member of the no-op set decodes as unimplemented. -/
theorem decodeBytes_eq_illegal {nops : NopSet} {op : Byte} (lo hi : Byte)
    (hoff : officialOpcodes.contains op = false) (hnop : nops.lengthOf op = none) :
    decodeBytes nops op lo hi = .illegal op := by
  rw [decodeBytes, decodeOfficial_eq_none hoff, hnop]

/-- Settles O10: the meaning of an unimplemented opcode, and the bytes that decode to one. -/
theorem unimplementedOpcodeHaltsWithDump : Obligations.UnimplementedOpcodeHaltsWithDump := by
  refine ⟨fun s op => exec_illegal s op, fun s hrun hdue hoff hnop => ?_⟩
  rw [step_eq_exec hrun hdue, State.fetchInstr_eq, s.boundary_pc, s.boundary_params,
    decodeBytes_eq_illegal _ _ hoff hnop]

/-! ### Construction -/

theorem toNat_and_F0 : ∀ b : Byte, (b &&& 0xF0).toNat = (b.toNat / 16) <<< 4 := by decide

/-- The mapper number: the high nibble of `flags_7` over the high nibble of `flags_6`. -/
theorem Image.toNat_mapperNumber (img : Image) :
    img.mapperNumber.toNat = 16 * (img.flags7.toNat / 16) + img.flags6.toNat / 16 := by
  have hlow : img.flags6.toNat / 16 < 2 ^ 4 := by have := img.flags6.isLt; omega
  calc img.mapperNumber.toNat
      = (img.flags7 &&& 0xF0).toNat ||| (img.flags6 >>> 4).toNat := BitVec.toNat_or _ _
    _ = (img.flags7.toNat / 16) <<< 4 ||| img.flags6.toNat / 16 := by
      rw [toNat_and_F0, BitVec.toNat_ushiftRight, Nat.shiftRight_eq_div_pow]
    _ = 16 * (img.flags7.toNat / 16) + img.flags6.toNat / 16 := by
      rw [← Nat.shiftLeft_add_eq_or_of_lt hlow, Nat.shiftLeft_eq, Nat.mul_comm]

section
variable {c : Construction}

theorem Construction.kind_test (h : c.testVariant = true) : c.kind = .ok .test := by
  rw [Construction.kind, if_pos h]

theorem Construction.kind_selected (h : c.testVariant = false) : c.kind = selectMapper c.image :=
  if_neg (ne_true_of_eq_false h)

theorem Construction.kind_nrom (h : c.testVariant = false) (hn : c.image.mapperNumber.toNat = 0) :
    c.kind = .ok .nrom :=
  (Construction.kind_selected h).trans (if_pos (BitVec.eq_of_toNat_eq hn))

theorem Construction.kind_mmc1 (h : c.testVariant = false) (hn : c.image.mapperNumber.toNat = 1) :
    c.kind = .ok .mmc1 := by
  have hn : c.image.mapperNumber = 1 := BitVec.eq_of_toNat_eq hn
  rw [Construction.kind_selected h, selectMapper, if_neg (by rw [hn]; decide), if_pos hn]

theorem Construction.kind_unsupported (h : c.testVariant = false) (hn : 2 ≤ c.image.mapperNumber.toNat) :
    c.kind = .error (.unsupportedMapper c.image.mapperNumber) := by
  rw [Construction.kind_selected h, selectMapper, if_neg fun e => absurd (e ▸ hn) (by decide),
    if_neg fun e => absurd (e ▸ hn) (by decide)]

variable {kind : MapperKind} (ha : c.admissible = true)
include ha

theorem construct_eq_fatal {why : Fatal} (hk : c.kind = .error why) : construct c = .error (.fatal why) := by
  simp [construct, ha, hk]

theorem construct_eq_misfit (hk : c.kind = .ok kind) (hf : c.image.fits kind ≠ true) :
    construct c = .error (.imageMisfit kind c.image.prgUnits) := by
  simp [construct, ha, hk, hf]

theorem construct_of_fits (hk : c.kind = .ok kind) (hf : c.image.fits kind = true) : ∃ s, construct c = .ok s := by
  simp [construct, ha, hk, hf]

end

theorem Image.fits_nrom_iff (img : Image) :
    img.fits .nrom = true ↔ img.prgUnits.toNat = 1 ∨ img.prgUnits.toNat = 2 := by
  simp [Image.fits, ← BitVec.toNat_inj]

theorem Image.fits_test_iff (img : Image) :
    img.fits .test = true ↔ img.prgUnits.toNat = 1 ∨ img.prgUnits.toNat = 2 := img.fits_nrom_iff

theorem Image.fits_mmc1_iff (img : Image) : img.fits .mmc1 = true ↔ 1 ≤ img.prgUnits.toNat := by
  simp [Image.fits, ← BitVec.toNat_inj, Nat.one_le_iff_ne_zero]

/-- Settles O15: the mapper number and the request for the test variant decide the variant to build, and the variant
which sizes fit. -/
theorem constructionRefusals : Obligations.ConstructionRefusals := by
  intro c ha n units
  have hn : c.image.mapperNumber.toNat = n := c.image.toNat_mapperNumber
  rw [← hn]
  refine ⟨rfl, fun ht h2 => ?_, fun ht h1 h2 => ?_, fun ht h0 h1 h2 => ?_, fun ht h1 h0 => ?_, fun hk hu => ?_,
    fun ht h1 hu => ?_⟩
  · exact construct_eq_fatal ha (Construction.kind_unsupported ht h2)
  · exact construct_eq_misfit ha (Construction.kind_test ht) (mt c.image.fits_test_iff.1 (not_or.2 ⟨h1, h2⟩))
  · exact construct_eq_misfit ha (Construction.kind_nrom ht h0) (mt c.image.fits_nrom_iff.1 (not_or.2 ⟨h1, h2⟩))
  · exact construct_eq_misfit ha (Construction.kind_mmc1 ht h1) (mt c.image.fits_mmc1_iff.1 (by omega))
  · cases ht : c.testVariant with
    | true => exact construct_of_fits ha (Construction.kind_test ht) (c.image.fits_test_iff.2 hu)
    | false =>
      have h0 := hk.resolve_left (ne_true_of_eq_false ht)
      exact construct_of_fits ha (Construction.kind_nrom ht h0) (c.image.fits_nrom_iff.2 hu)
  · exact construct_of_fits ha (Construction.kind_mmc1 ht h1) (c.image.fits_mmc1_iff.2 hu)

/-! ### The NMI -/

/-- The byte an NMI pushes is P through the mask of a pull: bit 4 clear, bit 5 set. -/
theorem pushedWithoutBreak_eq (p : Byte) : pushedWithoutBreak p = pulledStatus p := rfl

/-- Settles O58: the NMI is one trap through 0xFFFA from the state at the boundary, its latch cleared. -/
theorem nmiTakenAtStepBoundary : Obligations.NmiTakenAtStepBoundary := by
  refine ⟨fun s hs hrun hen hpend => ?_, fun s hen => ?_⟩
  · have hdue : s.boundary.nmiDue = true := by rw [State.nmiDue, s.boundary_params, hen, hpend]; rfl
    have hwf := s.boundary.wf_ram_of_inv (s.inv_boundary.trans hs)
    refine ⟨_, pushedWithoutBreak s.p, step_eq_takeNmi hrun hdue, ?_, ?_, ?_, ?_⟩
    · rw [← s.boundary_pc, ← s.boundary_p]
      exact trapEffect_takeTrap (s := { s.boundary with nmiPending := false }) _ _ hwf (by decide) (by decide)
    · rw [pushedWithoutBreak_eq, flagB_pulledStatus]
    · rw [pushedWithoutBreak_eq, flagU_pulledStatus]
    · exact bitsKept_pulledStatus s.p
  · rw [State.nmiDue, s.boundary_params, hen]; rfl

end Sys2Proof.Machine
end

section
/-! PROOF. What construction builds, and the reset operation (70_reset_and_hazards.md R260 to R262, 10_state.md R35,
20_memory.md R62). -/

namespace Sys2Proof.Machine

/-! ### The Mapper and the image of a construction -/

@[simp] theorem Mapper.identify_constructed (chrRam : Memory) (kind : MapperKind) :
    (Mapper.constructed chrRam kind).identify = kind := by
  cases kind <;> rfl

/-- The Mapper at construction is legal when the CHR RAM it is given is: its serial counter is 0 and SCRATCH empty. -/
theorem Mapper.legal_constructed {chrRam : Memory} (h : (Memory.wf chrRam && Memory.within 8192 chrRam) = true)
    (kind : MapperKind) : (Mapper.constructed chrRam kind).legal = true := by
  cases kind with
  | nrom => rfl
  | mmc1 => exact h
  | test => rfl

/-- Without a request for the test variant, a construction has a variant only for the mapper numbers 0 and 1. -/
theorem Construction.mapperNumber_of_kind {c : Construction} {kind : MapperKind} (ht : c.testVariant = false)
    (hk : c.kind = .ok kind) : c.image.mapperNumber = 0 ∨ c.image.mapperNumber = 1 := by
  by_contra hne
  obtain ⟨h0, h1⟩ := not_or.1 hne
  rw [Construction.kind_selected ht, selectMapper, if_neg h0, if_neg h1] at hk
  cases hk

/-- The conditions of admissibility one by one. -/
theorem Construction.admissible_iff (c : Construction) :
    c.admissible = true ↔ flagU c.initP = true ∧
      (Memory.wf c.ramInit && Memory.within 2048 c.ramInit) = true ∧
      (Memory.wf c.chrRamInit && Memory.within 8192 c.chrRamInit) = true ∧
      (Memory.wf c.image.prg && Memory.within c.image.prgLength c.image.prg) = true ∧
      (Memory.wf c.image.chr && Memory.within c.image.chrLength c.image.chr) = true ∧
      c.params.nopSet.admissible = true := by
  simp only [Construction.admissible, Bool.and_eq_true, and_assoc]

/-- Each conjunct of the invariant is a check admissibility makes of a parameter, but for the image's size, which
construction checks against the variant. -/
theorem inv_of_construct_eq_ok {c : Construction} {s : State} (h : construct c = .ok s) : s.inv = true := by
  obtain ⟨ha, kind, _, hfits, rfl⟩ := construct_eq_ok h
  obtain ⟨hp, hram, hchrRam, hprg, hchr, _⟩ := c.admissible_iff.1 ha
  refine (State.inv_iff _).2 ⟨hp, hram, Mapper.legal_constructed hchrRam kind, ?_⟩
  rw [State.imageLegal, Mapper.identify_constructed, hfits, hprg, hchr]
  rfl

/-- Settles O14: the fields are those `construct` writes out, and the request for the test variant and the mapper
number decide the variant. -/
theorem constructionGivesLegalMachine : Obligations.ConstructionGivesLegalMachine := by
  intro c s h
  have hinv := inv_of_construct_eq_ok h
  obtain ⟨_, kind, hk, _, rfl⟩ := construct_eq_ok h
  refine ⟨hinv, rfl, rfl, rfl, rfl, rfl, rfl, rfl, rfl, rfl, rfl, rfl, rfl, rfl, fun ht => ?_, fun ht hn => ?_,
    fun ht hn => ?_, fun ht => Construction.mapperNumber_of_kind ht hk⟩
  · cases (Construction.kind_test ht).symm.trans hk
    rfl
  · cases (Construction.kind_nrom ht (congrArg BitVec.toNat hn)).symm.trans hk
    rfl
  · cases (Construction.kind_mmc1 ht (congrArg BitVec.toNat hn)).symm.trans hk
    rfl

/-! ### The reset operation -/

theorem State.performReset_of_running {s : State} (hrun : s.status = .running) :
    s.performReset = s.setPc (s.memReadWord Config.resetVector) := by
  rw [State.performReset, hrun]

/-- Settles O16: on a running machine the reset operation sets PC to the word loaded from 0xFFFC. -/
theorem resetLoadsPcOnly : Obligations.ResetLoadsPcOnly := by
  intro s hrun
  refine ⟨s.memReadWord Config.resetVector, State.performReset_of_running hrun, ?_⟩
  rw [State.toNat_memReadWord, Nat.add_comm, Nat.mul_comm]
  rfl

end Sys2Proof.Machine
end
